-- ==== Sys2Proof/Word.lean ====
section
/-!
DEFINITION. The command word and the fixed names of the block: its two agents, its four channels, the kinds of
fault it records and the reasons a word is refused. Plain data, nothing computed.
-/

namespace Sys2Proof

/-- A command word of the one format CMD64: 64 bits, bit 63 the most significant (30_encoding.md R70). -/
abbrev Word := BitVec 64

/-- One byte of a command word, where a transport moves the word as bytes (20_memory.md R51). -/
abbrev Byte := BitVec 8

/-- The two agents whose steps interleave (00_scope.md R5): the command issuer and the timer. -/
inductive Agent where
  | host
  | timer
deriving DecidableEq, Repr, Inhabited

/-- The four fixed compare units CH1 to CH4 (00_scope.md R10, R15). -/
inductive Channel where
  | ch1
  | ch2
  | ch3
  | ch4
deriving DecidableEq, Repr, Inhabited

/-- The kinds of fault FAULT records (60_exceptions.md R203). -/
inductive FaultKind where
  /-- SETFREQ, SETDC or START while PHASE = 0. -/
  | useBeforeInit
  /-- INIT while PHASE = 2. -/
  | initWhileRunning
  /-- SETFREQ in range whose period does not fit, under OVERSIZE_PERIOD_POLICY = Fault. -/
  | periodOverflow
deriving DecidableEq, Repr

/-- The reasons the decoder refuses a word for (30_encoding.md R78). -/
inductive RefusalReason where
  /-- OP is 0x0 or 0x5 to 0xF. -/
  | reservedOpcode
  /-- A field the command must hold at zero is not zero. -/
  | reservedBitsNonZero
deriving DecidableEq, Repr

end Sys2Proof
end

