-- ==== Sys2Proof/Config.lean ====
section
/-!
DEFINITION. What an implementation of the block fixes (the parameters of 00_scope.md section 3, with the spec's
defaults) and the free values: constants without a body for what the spec leaves open.
-/

namespace Sys2Proof

/-- CNT_WIDTH, either 16 or 32 (00_scope.md R7). -/
inductive CntWidth where
  | w16
  | w32
deriving DecidableEq, Repr

/-- OVERSIZE_PERIOD_POLICY, either Reject or Fault (00_scope.md R17). -/
inductive OversizePolicy where
  | reject
  | fault
deriving DecidableEq, Repr

/-- The parameters of the block, in the order of 00_scope.md section 3. A configuration is fixed for the machine. -/
structure Config where
  /-- TICK_RATE_HZ: timer ticks per second (R6). -/
  tickRateHz : Nat
  /-- CNT_WIDTH: the width of the counter, the period and the compare registers (R7). -/
  cntWidth : CntWidth
  /-- MAX_FREQ_HZ: the largest switching frequency SETFREQ accepts (R8). -/
  maxFreqHz : Nat
  /-- DEFAULT_FREQ_HZ: the frequency whose period INIT installs (R9). -/
  defaultFreqHz : Nat
  /-- FORCED_UPDATE_RESETS_COUNTER: does START's forced update set the counter to 0 (R11). -/
  forcedUpdateResetsCounter : Bool
  /-- OVERSIZE_PERIOD_POLICY: what SETFREQ does with a period that does not fit (R17). -/
  oversizePeriodPolicy : OversizePolicy
deriving DecidableEq, Repr

/-- The spec's defaults (R6 to R9, R11, R17). DESIGN CHOICE to run this instance, log entry 2: unsafe where a chip
has other parameters. -/
def Config.defaults : Config where
  tickRateHz := 1000000
  cntWidth := .w16
  maxFreqHz := 100000
  defaultFreqHz := 100
  forcedUpdateResetsCounter := false
  oversizePeriodPolicy := .reject

/-- FREE VALUE (log entry 5): which agent steps where both can and the settled part of the interleaving is used up.
20_memory.md R53: the two agents' steps interleave in any order. Applied to the state's counter `draw`. -/
opaque Config.freeTurn : Nat → Agent

/-- FREE VALUE (log entry 22): the next word of a host that goes on past the settled part of its stream, any word with
no law. 20_memory.md R53 bounds no stream. Applied to the state's counter `draw`. -/
opaque Config.freeWord : Nat → Word

/-- FREE VALUE (log entry 9): the level of an output outside phase 2, any value with no law
(45_counter_and_outputs.md R156). Applied to the state's counter `draw`. -/
opaque Config.freeOut : Nat → Channel → Bool

end Sys2Proof
end

