-- ==== Sys2Proof/Machine/Operands.lean ====
section
/-!
DEFINITION. The operand forms of the commands and the arithmetic on them: the period and the compare value, the
acceptance predicates, the channel identifiers. Exact natural numbers and floor division (00_scope.md R14).
-/

namespace Sys2Proof.Machine

/-- The number of bits CNT_WIDTH stands for (00_scope.md R7). -/
def cntBits : CntWidth → Nat
  | .w16 => 16
  | .w32 => 32

/-- `MAX_PERIOD = 2^CNT_WIDTH - 1` (00_scope.md R7). -/
def maxPeriod (c : Config) : Nat :=
  2 ^ cntBits c.cntWidth - 1

/-- PER_MILLE_FULL, the duty that means 100% (00_scope.md R10). -/
def perMilleFull : Nat :=
  1000

/-- The period of a frequency, `(TICK_RATE_HZ div f) - 1` (40_timer_core.md R104). -/
def period (c : Config) (f : Nat) : Nat :=
  c.tickRateHz / f - 1

/-- DEFAULT_PERIOD, the period INIT installs (00_scope.md R9). -/
def defaultPeriod (c : Config) : Nat :=
  period c c.defaultFreqHz

/-- FreqInRange (40_timer_core.md R105). -/
abbrev FreqInRange (c : Config) (f : Nat) : Prop :=
  1 ≤ f ∧ f ≤ c.maxFreqHz

/-- FreqOK, SETFREQ's acceptance predicate (40_timer_core.md R105). -/
abbrev FreqOK (c : Config) (f : Nat) : Prop :=
  FreqInRange c f ∧ 1 ≤ period c f ∧ period c f ≤ maxPeriod c

/-- The compare value of a duty, `(p * d) div 1000` (41_channel_driver.md R131). -/
def compareValue (p d : Nat) : Nat :=
  p * d / perMilleFull

/-- ChanOK: the identifier names one of CH1 to CH4 (41_channel_driver.md R132). -/
abbrev ChanOK (chan : Nat) : Prop :=
  chan ≤ 3

/-- DutyOK: at most 1000 per mille, the boundary included (41_channel_driver.md R132). -/
abbrev DutyOK (duty : Nat) : Prop :=
  duty ≤ perMilleFull

/-- `Chan(CHAN)`: 0 to 3 name CH1 to CH4, every other identifier names no channel (30_encoding.md R77). -/
def chanOf (chan : BitVec 8) : Option Channel :=
  if chan = 0#8 then some .ch1
  else if chan = 1#8 then some .ch2
  else if chan = 2#8 then some .ch3
  else if chan = 3#8 then some .ch4
  else none

/-- The identifier of a channel, the other way (30_encoding.md R77). -/
def chanCode : Channel → BitVec 8
  | .ch1 => 0#8
  | .ch2 => 1#8
  | .ch3 => 2#8
  | .ch4 => 3#8

end Sys2Proof.Machine
end

