-- ==== Sys2Proof/Syntax.lean ====
section
/-!
DEFINITION. The commands of the block, one constructor per row of spec/opcode_table.json (30_encoding.md R72).
The operands have the widths of their fields (R71, R77), so that every term is a command and none is ill-formed.
-/

namespace Sys2Proof

/-- The four commands (00_scope.md R3, 30_encoding.md R72). TICK is no command (00_scope.md R13). -/
inductive Instr where
  /-- INIT (R73): no operands. -/
  | init
  /-- SETFREQ (R74): FREQ in hertz, every 32-bit value. -/
  | setfreq (freq : BitVec 32)
  /-- SETDC (R75): the 8-bit channel identifier and DUTY in per mille, every value of each. -/
  | setdc (chan : BitVec 8) (duty : BitVec 32)
  /-- START (R76): no operands. -/
  | start
deriving DecidableEq, Repr

end Sys2Proof
end

