-- ==== Sys2Proof/WellFormed.lean ====
section
/-!
DEFINITION. Which configurations are well formed (00_scope.md R12, three clauses) and which literals the assembler
may take (30_encoding.md R82). A command has no check of its own: its operand types hold exactly the values its
encoding admits (R74, R75).
-/

namespace Sys2Proof

open Sys2Proof.Machine

/-- 00_scope.md R12 (a): every accepted frequency gives a period of at least 1. -/
abbrev Config.RatesOK (c : Config) : Prop :=
  1 ≤ c.maxFreqHz ∧ 2 * c.maxFreqHz ≤ c.tickRateHz

/-- 00_scope.md R12 (b): the frequency INIT installs passes the acceptance predicate. -/
abbrev Config.DefaultOK (c : Config) : Prop :=
  FreqOK c c.defaultFreqHz

/-- 00_scope.md R12 (c): the tick rate is an unsigned value of at most 32 bits. -/
abbrev Config.TickRateFits (c : Config) : Prop :=
  c.tickRateHz ≤ 2 ^ 32 - 1

/-- A well-formed configuration (00_scope.md R12). -/
abbrev Config.WellFormed (c : Config) : Prop :=
  c.RatesOK ∧ c.DefaultOK ∧ c.TickRateFits

/-- A literal the assembler takes for a frequency or a duty (30_encoding.md R82). -/
abbrev LiteralFits (n : Nat) : Prop :=
  n ≤ 2 ^ 32 - 1

/-- A number the assembler takes after the number sign of a channel identifier (30_encoding.md R82). -/
abbrev ChanLiteralFits (n : Nat) : Prop :=
  n ≤ 255

end Sys2Proof
end

