-- ==== Sys2Proof/Decode.lean ====
section
/-!
DEFINITION. The decoder of command words (30_encoding.md R78), total on all 2^64 words, refusing by name; the
encoder; the opcode table as mask and match rows; and the byte order a transport of words would use.
-/

namespace Sys2Proof

/-! ### The fields of CMD64 (30_encoding.md R71) -/

/-- OP, bits 63:60. -/
def opField (w : Word) : BitVec 4 :=
  w.extractLsb' 60 4

/-- RSV, bits 59:40. -/
def rsvField (w : Word) : BitVec 20 :=
  w.extractLsb' 40 20

/-- CHAN, bits 39:32. -/
def chanField (w : Word) : BitVec 8 :=
  w.extractLsb' 32 8

/-- VAL, bits 31:0. -/
def valField (w : Word) : BitVec 32 :=
  w.extractLsb' 0 32

/-- The word with these four fields. -/
def ofFields (op : BitVec 4) (rsv : BitVec 20) (chan : BitVec 8) (val : BitVec 32) : Word :=
  op ++ rsv ++ chan ++ val

/-! ### Decode (30_encoding.md R78) -/

/-- The decoder's verdict on a word: the command it spells or the reason it is refused for. The reserved opcodes are
checked first, then the reserved bits, as R78 and 60_exceptions.md R205 order them. -/
def decode (w : Word) : Except RefusalReason Instr :=
  if opField w = 0x0#4 ∨ 0x5#4 ≤ opField w then .error .reservedOpcode
  else if rsvField w ≠ 0#20 then .error .reservedBitsNonZero
  else if opField w = 0x1#4 then
    if chanField w = 0#8 ∧ valField w = 0#32 then .ok .init else .error .reservedBitsNonZero
  else if opField w = 0x2#4 then
    if chanField w = 0#8 then .ok (.setfreq (valField w)) else .error .reservedBitsNonZero
  else if opField w = 0x3#4 then .ok (.setdc (chanField w) (valField w))
  else if chanField w = 0#8 ∧ valField w = 0#32 then .ok .start else .error .reservedBitsNonZero

/-- The one word that spells a command (30_encoding.md R73 to R76). -/
def encode : Instr → Word
  | .init => ofFields 0x1#4 0#20 0#8 0#32
  | .setfreq freq => ofFields 0x2#4 0#20 0#8 freq
  | .setdc chan duty => ofFields 0x3#4 0#20 chan duty
  | .start => ofFields 0x4#4 0#20 0#8 0#32

/-! ### The opcode table (spec/opcode_table.json, R73 to R76) -/

/-- A row of the opcode table. -/
structure TableRow where
  mnemonic : String
  pattern : Word
  mask : Word
deriving DecidableEq, Repr

/-- The words a row matches. -/
abbrev TableRow.Matches (r : TableRow) (w : Word) : Prop :=
  w &&& r.mask = r.pattern

def initRow : TableRow := ⟨"INIT", 0x1000000000000000#64, 0xFFFFFFFFFFFFFFFF#64⟩
def setfreqRow : TableRow := ⟨"SETFREQ", 0x2000000000000000#64, 0xFFFFFFFF00000000#64⟩
def setdcRow : TableRow := ⟨"SETDC", 0x3000000000000000#64, 0xFFFFFF0000000000#64⟩
def startRow : TableRow := ⟨"START", 0x4000000000000000#64, 0xFFFFFFFFFFFFFFFF#64⟩

/-- The four rows, in the table's order. -/
def opcodeTable : List TableRow :=
  [initRow, setfreqRow, setdcRow, startRow]

/-- The row of a command. -/
def rowOf : Instr → TableRow
  | .init => initRow
  | .setfreq _ => setfreqRow
  | .setdc _ _ => setdcRow
  | .start => startRow

/-! ### The word as bytes (20_memory.md R51) -/

/-- Byte `k` of a word holds bits `8k+7:8k`. -/
def byteOf (w : Word) (k : Nat) : Byte :=
  w.extractLsb' (8 * k) 8

/-- The bytes of a word, the first at the lowest place: little-endian. -/
def bytesOfWord (w : Word) : List Byte :=
  (List.range 8).map (byteOf w)

/-- The word that eight bytes carry. Any other number of bytes carries none: a command is always a whole word (R52). -/
def wordOfBytes : List Byte → Option Word
  | [b0, b1, b2, b3, b4, b5, b6, b7] => some (b7 ++ b6 ++ b5 ++ b4 ++ b3 ++ b2 ++ b1 ++ b0)
  | _ => none

/-! ### The host's questions -/

/-- The word whose low `nbits` bits are those of `w`, the bits above them zero. -/
def tableWord (nbits w : Nat) : Word :=
  BitVec.ofNat 64 (w % 2 ^ nbits)

/-- The instruction this decoder reads from a row's word, numbered as the opcode table numbers its bits. A command is
delivered as one whole 64-bit value (20_memory.md R51), so no byte order comes in. -/
def decodeTableWord (nbits w : Nat) : Option Instr :=
  match decode (tableWord nbits w) with
  | .ok i => some i
  | .error _ => none

end Sys2Proof
end

