-- ==== Sys2Proof/Machine/State.lean ====
section
/-!
DEFINITION. The architectural state of the block (10_state.md R20) as plain data, the reasons a step can stop for,
the state after power-on reset, and the names of the state elements (R35).
-/

namespace Sys2Proof.Machine

/-- PHASE (10_state.md R24). The value 3 is never held, so it has no constructor. -/
inductive Phase where
  /-- 0, Uninitialized. -/
  | uninitialized
  /-- 1, Initialized: the counter is stopped. -/
  | initialized
  /-- 2, Running. -/
  | running
deriving DecidableEq, Repr

/-- One value for each of the four channels (00_scope.md R15). -/
structure Bank (α : Type) where
  ch1 : α
  ch2 : α
  ch3 : α
  ch4 : α
deriving DecidableEq, Repr

/-- What FAULT holds: the kind and the command word that faulted (10_state.md R31). -/
structure FaultRecord where
  kind : FaultKind
  word : Word
deriving DecidableEq, Repr

/-- What REFUSED holds: the reason and the refused word (10_state.md R32). -/
structure RefusalRecord where
  reason : RefusalReason
  word : Word
deriving DecidableEq, Repr

/-- Why a step is not enabled. Raising a fault or refusing a word is a next state that records it (R15); these stop
the steps after it (60_exceptions.md R204). -/
inductive Fault where
  /-- FAULT is not None, so no step is enabled until power-on reset. Raised by `step` and by every command. Safe: the
  chip may go on, and no claim about what follows can be proved (60_exceptions.md R204). -/
  | faultLatched (r : FaultRecord)
  /-- REFUSED is not None, so no step is enabled until power-on reset. Raised by `step` and by every command. Safe,
  for the same reason (60_exceptions.md R204). -/
  | refusedLatched (r : RefusalRecord)
deriving DecidableEq, Repr

/-- Why a command has no meaning. -/
inductive Refusal where
  /-- The command has no meaning in this model yet. No arm of `exec` raises it: every command has its meaning. Safe. -/
  | notModelled (mnemonic : String)
deriving DecidableEq, Repr

/-- The state of the block (10_state.md R20), with its configuration, which no step writes, and the model's own
record of what the two agents have still to do (20_memory.md R53). Every register is a natural number below
2^CNT_WIDTH, as R14 has it; the bound is an invariant (log entry 4). -/
structure State where
  /-- The configuration of this block (00_scope.md R6 to R11, R17), constant (log entry 1). -/
  cfg : Config
  /-- PHASE (R24). -/
  phase : Phase
  /-- CNT, the up-counter (R30). -/
  cnt : Nat
  /-- ARR_PRE, the preload period: the Current Period (R25). -/
  arrPre : Nat
  /-- ARR_ACT, the active period (R26). -/
  arrAct : Nat
  /-- CCR_PRE[1..4], the preload compare values (R27). -/
  ccrPre : Bank Nat
  /-- CCR_ACT[1..4], the active compare values (R28). -/
  ccrAct : Bank Nat
  /-- CCE[1..4], the output enables (R29). -/
  cce : Bank Bool
  /-- FAULT (R31). -/
  fault : Option FaultRecord
  /-- REFUSED (R32). -/
  refusedWord : Option RefusalRecord
  /-- The model's own field: the settled words of the host's stream not delivered yet (20_memory.md R53, R62; log
  entry 5). -/
  stream : List Word
  /-- The model's own field: does the host go on past those words, with words no law fixes, without end; otherwise its
  stream ends with them (20_memory.md R53; log entry 22). -/
  hostGoesOn : Bool
  /-- The model's own field: which agent takes the coming steps, oldest first (20_memory.md R53; log entry 5). -/
  turns : List Agent
  /-- The model's own field: the counter the free values are applied to, advanced by every step (log entry 20). -/
  draw : Nat
deriving DecidableEq, Repr

/-- The values power-on reset leaves in the elements the spec leaves unspecified: one draw per element, fixed for the
run, with no law (10_state.md R38). -/
structure Draws where
  cnt : Nat
  arrPre : Nat
  arrAct : Nat
  ccrPre : Bank Nat
  ccrAct : Bank Nat
  cce : Bank Bool
deriving DecidableEq, Repr

/-- The state right after power-on reset, for any configuration and any draws (10_state.md R38,
70_reset_and_hazards.md R230). The host has delivered nothing, and nothing about its stream is settled (log entry
22). -/
def State.powerOn (c : Config) (d : Draws) : State where
  cfg := c
  phase := .uninitialized
  cnt := d.cnt
  arrPre := d.arrPre
  arrAct := d.arrAct
  ccrPre := d.ccrPre
  ccrAct := d.ccrAct
  cce := d.cce
  fault := none
  refusedWord := none
  stream := []
  hostGoesOn := true
  turns := []
  draw := 0

/-- DESIGN CHOICE, unsafe (log entry 3): every unspecified element is zero in `State.reset`. -/
def Draws.zero : Draws where
  cnt := 0
  arrPre := 0
  arrAct := 0
  ccrPre := ⟨0, 0, 0, 0⟩
  ccrAct := ⟨0, 0, 0, 0⟩
  cce := ⟨false, false, false, false⟩

/-- The machine right after reset: the spec's default configuration (log entry 2) and zero draws (log entry 3). -/
def State.reset : State :=
  State.powerOn Config.defaults Draws.zero

/-- The state elements as 10_state.md R35 names them. CCE is one element of four bits. -/
inductive Elem where
  | phase
  | cnt
  | arrPre
  | arrAct
  | ccrPre (c : Channel)
  | ccrAct (c : Channel)
  | cce
  | mode
  | fault
  | refused
deriving DecidableEq, Repr

end Sys2Proof.Machine
end

