-- ==== Sys2Proof/Machine/Flags.lean ====
section
/-!
DEFINITION. The block has no flags, condition codes or status bits (10_state.md R23). What has a numeric code here:
the phases, the fault kinds, the refusal reasons, and the constant MODE with its fields.
-/

namespace Sys2Proof.Machine

/-- The value of PHASE (10_state.md R24). -/
def phaseCode : Phase → Nat
  | .uninitialized => 0
  | .initialized => 1
  | .running => 2

/-- The cause code of a fault kind (60_exceptions.md R203). -/
def faultCode : FaultKind → Nat
  | .useBeforeInit => 1
  | .initWhileRunning => 2
  | .periodOverflow => 3

/-- The code of a refusal reason (10_state.md R32, 60_exceptions.md R203). -/
def reasonCode : RefusalReason → Nat
  | .reservedOpcode => 1
  | .reservedBitsNonZero => 2

/-- The code FAULT shows: 0 for None (60_exceptions.md R203). -/
def faultCodeOf : Option FaultRecord → Nat
  | none => 0
  | some r => faultCode r.kind

/-- The code REFUSED shows: 0 for None (60_exceptions.md R203). -/
def reasonCodeOf : Option RefusalRecord → Nat
  | none => 0
  | some r => reasonCode r.reason

/-! ### MODE (10_state.md R33) -/

/-- MODE, hard-wired and read-only: no command reads or writes it, so no state holds it (log entry 19). -/
def mode : BitVec 16 :=
  0x03F0#16

/-- DIR, bit 0: 0 is up-counting. -/
def modeDir : BitVec 1 := mode.extractLsb' 0 1
/-- CMS, bits 2:1: 00 is edge-aligned. -/
def modeCms : BitVec 2 := mode.extractLsb' 1 2
/-- OPM, bit 3: 0 is continuous. -/
def modeOpm : BitVec 1 := mode.extractLsb' 3 1
/-- ARPE, bit 4: 1 is period preload enabled. -/
def modeArpe : BitVec 1 := mode.extractLsb' 4 1
/-- OCPE[4:1], bits 8:5: compare preload enabled per channel. -/
def modeOcpe : BitVec 4 := mode.extractLsb' 5 4
/-- OCM, bits 10:9: 01 is output active while CNT < CCR_ACT[i]. -/
def modeOcm : BitVec 2 := mode.extractLsb' 9 2
/-- POL, bit 11: 0 is active high. -/
def modePol : BitVec 1 := mode.extractLsb' 11 1
/-- RCR, bits 15:12: repetition count 0, an update on every overflow. -/
def modeRcr : BitVec 4 := mode.extractLsb' 12 4

end Sys2Proof.Machine
end

