-- ==== Sys2Proof/Machine/Ops.lean ====
section
/-!
DEFINITION. The named operations over the state: the channel banks, raising a fault and refusing a word, the one
guard every command runs under, the register writes, the update event, power-on reset.
-/

namespace Sys2Proof.Machine

/-- The outcome of a command or a step. -/
abbrev Result :=
  Host.Outcome State Fault Refusal

/-! ### The channel banks -/

/-- The value of channel `c`. -/
def Bank.get {α : Type} (b : Bank α) : Channel → α
  | .ch1 => b.ch1
  | .ch2 => b.ch2
  | .ch3 => b.ch3
  | .ch4 => b.ch4

/-- The bank with channel `c` at `v` and the other channels as they were. -/
def Bank.set {α : Type} (b : Bank α) (c : Channel) (v : α) : Bank α :=
  match c with
  | .ch1 => { b with ch1 := v }
  | .ch2 => { b with ch2 := v }
  | .ch3 => { b with ch3 := v }
  | .ch4 => { b with ch4 := v }

/-- The bank with every channel at `v`. -/
def Bank.all {α : Type} (v : α) : Bank α :=
  ⟨v, v, v, v⟩

/-- Every channel's value satisfies `p`. -/
abbrev Bank.Forall {α : Type} (p : α → Prop) (b : Bank α) : Prop :=
  p b.ch1 ∧ p b.ch2 ∧ p b.ch3 ∧ p b.ch4

/-! ### Faults and refusals -/

/-- FAULT = None and REFUSED = None: the premise of every command rule and every claim (60_exceptions.md R204). -/
abbrev State.Live (s : State) : Prop :=
  s.fault = none ∧ s.refusedWord = none

/-- `raise Fault(k)`: record the kind and the command word, and write nothing else (00_scope.md R15, 60_exceptions.md
R204). The block saves nothing more and transfers control nowhere (R208). -/
def raiseFault (k : FaultKind) (w : Word) (s : State) : State :=
  { s with fault := some ⟨k, w⟩ }

/-- `refuse(reason)`: record the reason and the word, and write nothing else (30_encoding.md R78). -/
def refuseWord (r : RefusalReason) (w : Word) (s : State) : State :=
  { s with refusedWord := some ⟨r, w⟩ }

/-- Run `o` only when FAULT = None and REFUSED = None; otherwise no step is enabled (60_exceptions.md R204, log
entry 6). There is no return from such a state but power-on reset (R209). -/
def ifLive (s : State) (o : Result) : Result :=
  match s.fault, s.refusedWord with
  | some r, _ => .fault (.faultLatched r)
  | none, some r => .fault (.refusedLatched r)
  | none, none => o

/-! ### Register writes -/

/-- ARR_PRE <- p (10_state.md R25). -/
def writePeriod (p : Nat) (s : State) : State :=
  { s with arrPre := p }

/-- CCR_PRE[c] <- v (10_state.md R27). -/
def writeCompare (c : Channel) (v : Nat) (s : State) : State :=
  { s with ccrPre := s.ccrPre.set c v }

/-- CNT <- n (10_state.md R30). -/
def writeCounter (n : Nat) (s : State) : State :=
  { s with cnt := n }

/-- PHASE <- p (10_state.md R24). -/
def writePhase (p : Phase) (s : State) : State :=
  { s with phase := p }

/-- What INIT commits (40_timer_core.md R100): the default period, the compare values and the counter at 0, the outputs
enabled, the phase Initialized. ARR_ACT and CCR_ACT are not written. -/
def configure (s : State) : State :=
  { s with
    phase := .initialized
    cnt := 0
    arrPre := defaultPeriod s.cfg
    ccrPre := Bank.all 0
    cce := Bank.all true }

/-! ### The update event -/

/-- UpdateLatch, the copy of the preload registers into the active ones (45_counter_and_outputs.md R152). -/
def updateLatch (s : State) : State :=
  { s with arrAct := s.arrPre, ccrAct := s.ccrPre }

/-- ForceUpdate, START's update event (40_timer_core.md R110). -/
def forceUpdate (s : State) : State :=
  if s.cfg.forcedUpdateResetsCounter then writeCounter 0 (updateLatch s) else updateLatch s

/-! ### Power-on reset -/

/-- Draws of the elements' widths (10_state.md R38). -/
abbrev Draws.Fits (c : Config) (d : Draws) : Prop :=
  d.cnt ≤ maxPeriod c ∧ d.arrPre ≤ maxPeriod c ∧ d.arrAct ≤ maxPeriod c ∧
    d.ccrPre.Forall (· ≤ maxPeriod c) ∧ d.ccrAct.Forall (· ≤ maxPeriod c)

/-- The machine of a configuration after power-on, with the settled part of the host's stream, whether the host goes on
past it, and the settled turns given; none for a configuration that is not well formed: a model builds no machine from
it (00_scope.md R12). -/
def State.build? (c : Config) (d : Draws) (stream : List Word) (goesOn : Bool) (turns : List Agent) : Option State :=
  if c.WellFormed ∧ d.Fits c then
    some { State.powerOn c d with stream := stream, hostGoesOn := goesOn, turns := turns }
  else none

/-- Power-on reset of a machine in any state (70_reset_and_hazards.md R230): the only way out of a faulted or refused
state. The host and its stream are outside the block. It starts a new run and is no step of one (log entry 12). -/
def State.powerOnReset (d : Draws) (s : State) : State :=
  { State.powerOn s.cfg d with
    stream := s.stream
    hostGoesOn := s.hostGoesOn
    turns := s.turns
    draw := s.draw + 1 }

end Sys2Proof.Machine
end

