-- ==== Sys2Proof/Machine/ChannelDriver.lean ====
section
/-!
DEFINITION. The Channel Driver command SETDC (41_channel_driver.md).
-/

namespace Sys2Proof.Machine

/-- SETDC (41_channel_driver.md R133): the phase check, then the channel, then the duty, then the compare value scaled
against ARR_PRE into that channel's preload register. -/
def execSetdc (chan : BitVec 8) (duty : BitVec 32) (s : State) : Result :=
  ifLive s <| .next <|
    if s.phase = .uninitialized then raiseFault .useBeforeInit (encode (.setdc chan duty)) s
    else
      match chanOf chan with
      | none => s
      | some c =>
        if ¬ DutyOK duty.toNat then s
        else writeCompare c (compareValue s.arrPre duty.toNat) s

end Sys2Proof.Machine
end

