-- ==== Sys2Proof/Machine/TimerCore.lean ====
section
/-!
DEFINITION. The Timer Core commands INIT, SETFREQ and START (40_timer_core.md).
-/

namespace Sys2Proof.Machine

/-- INIT (40_timer_core.md R100): configure in phase 0 or 1, fault while running. -/
def execInit (s : State) : Result :=
  ifLive s <| .next <|
    match s.phase with
    | .running => raiseFault .initWhileRunning (encode .init) s
    | .uninitialized | .initialized => configure s

/-- A SETFREQ in range whose period does not fit: the configured policy decides (00_scope.md R17, 40_timer_core.md
R106). -/
def oversizePeriod (freq : BitVec 32) (s : State) : State :=
  match s.cfg.oversizePeriodPolicy with
  | .fault => raiseFault .periodOverflow (encode (.setfreq freq)) s
  | .reject => s

/-- SETFREQ (40_timer_core.md R106): the phase check, then the range, then the period, then the commit (60_exceptions.md
R205). -/
def execSetfreq (freq : BitVec 32) (s : State) : Result :=
  ifLive s <| .next <|
    if s.phase = .uninitialized then raiseFault .useBeforeInit (encode (.setfreq freq)) s
    else if ¬ FreqInRange s.cfg freq.toNat then s
    else if ¬ FreqOK s.cfg freq.toNat then oversizePeriod freq s
    else writePeriod (period s.cfg freq.toNat) s

/-- START (40_timer_core.md R109): force an update event and run the counter. -/
def execStart (s : State) : Result :=
  ifLive s <| .next <|
    if s.phase = .uninitialized then raiseFault .useBeforeInit (encode .start) s
    else writePhase .running (forceUpdate s)

end Sys2Proof.Machine
end

