-- ==== Sys2Proof/Machine/Dispatch.lean ====
section
/-!
DEFINITION. The one dispatch from a command to its meaning.
-/

namespace Sys2Proof.Machine

def exec (i : Instr) (s : State) : Host.Outcome State Fault Refusal :=
  match i with
  | .init => Sys2Proof.Machine.execInit s
  | .setfreq freq => Sys2Proof.Machine.execSetfreq freq s
  | .setdc chan duty => Sys2Proof.Machine.execSetdc chan duty s
  | .start => Sys2Proof.Machine.execStart s

end Sys2Proof.Machine
end

