-- ==== Sys2Proof/Machine/Counter.lean ====
section
/-!
DEFINITION. The timer's autonomous transition TICK and the four output signals (45_counter_and_outputs.md).
-/

namespace Sys2Proof.Machine

/-- One TICK (45_counter_and_outputs.md R151): count up, or wrap at the period and make an update event. -/
def tick (s : State) : State :=
  if s.arrAct ≤ s.cnt then updateLatch (writeCounter 0 s) else writeCounter (s.cnt + 1) s

/-- TICK is enabled exactly when PHASE = 2, FAULT = None and REFUSED = None (45_counter_and_outputs.md R150). -/
abbrev State.TickEnabled (s : State) : Prop :=
  s.phase = .running ∧ s.Live

/-- OUT[c], true for the active level, high (45_counter_and_outputs.md R154). Outside phase 2 it is a free value (R156,
log entry 9). In a faulted or refused state of phase 2 the same function holds (log entry 21). -/
def State.out (s : State) (c : Channel) : Bool :=
  match s.phase with
  | .running => s.cce.get c && decide (s.cnt < s.ccrAct.get c)
  | .uninitialized | .initialized => Config.freeOut s.draw c

/-- The four outputs together: one `W_k` of the waveform (45_counter_and_outputs.md R160). -/
def State.wave (s : State) : Bank Bool :=
  ⟨s.out .ch1, s.out .ch2, s.out .ch3, s.out .ch4⟩

/-- The output frequency while ARR_ACT = a holds, `TICK_RATE_HZ / (a + 1)` Hz, not truncated
(45_counter_and_outputs.md R157). -/
def achievedHz (c : Config) (a : Nat) : Rat :=
  (c.tickRateHz : Rat) / ((a : Rat) + 1)

end Sys2Proof.Machine
end

