-- ==== Sys2Proof/Machine/Schedule.lean ====
section
/-!
DEFINITION. Which of the two agents takes the next step, and the word the host delivers (20_memory.md R53): any
interleaving and any stream, ending or not, is possible, and the plain data in the state, then free values, say which
ones this run has.
-/

namespace Sys2Proof.Machine

/-- The agent whose turn it is: the oldest settled turn, or the free value where none is left (log entry 5). -/
def State.turn (s : State) : Agent :=
  match s.turns with
  | a :: _ => a
  | [] => Config.freeTurn s.draw

/-- The next word of the host's stream: the oldest settled one; past those, the free value where the host goes on, and
none where its stream has ended (log entries 5 and 22). -/
def State.nextWord (s : State) : Option Word :=
  match s.stream with
  | w :: _ => some w
  | [] => if s.hostGoesOn then some (Config.freeWord s.draw) else none

/-- Can the host deliver a word: its stream has one, and command steps are enabled (60_exceptions.md R204). -/
def State.hostReady (s : State) : Bool :=
  s.nextWord.isSome && decide s.Live

/-- Is a TICK step enabled (45_counter_and_outputs.md R150). -/
def State.timerReady (s : State) : Bool :=
  decide s.TickEnabled

/-- The agent that takes the next step. The turn decides only where both agents can step; none where neither can. -/
def State.mover (s : State) : Option Agent :=
  match s.hostReady, s.timerReady with
  | true, true => some s.turn
  | true, false => some .host
  | false, true => some .timer
  | false, false => none

/-- The model's own bookkeeping of a step: the turn is used up and the free values' counter advances (log entries 5
and 20). -/
def passTurn (s : State) : State :=
  { s with turns := s.turns.tail, draw := s.draw + 1 }

/-- The next word of the stream is delivered: the stream goes on with what follows it. -/
def takeWord (s : State) : State :=
  { s with stream := s.stream.tail }

end Sys2Proof.Machine
end

