-- ==== Sys2Proof/Machine/Deliver.lean ====
section
/-!
DEFINITION. A command step: the host delivers the next word of its stream and the block performs it (20_memory.md
R53). It stands in the place of an instruction fetch, which the block does not have (R60).
-/

namespace Sys2Proof.Machine

/-- Perform one delivered word: decode it, then run the command or record the refusal, before any phase check
(30_encoding.md R78, 60_exceptions.md R205). -/
def deliver (w : Word) (s : State) : Result :=
  ifLive s <|
    match decode w with
    | .ok i => exec i s
    | .error r => .next (refuseWord r w s)

/-- A command step: take the next word of the stream and perform it. -/
def hostStep (s : State) : Result :=
  match s.nextWord with
  | some w => deliver w (takeWord (passTurn s))
  | none => .next (passTurn s)

/-- A TICK step of the timer. -/
def timerStep (s : State) : Result :=
  .next (tick (passTurn s))

/-- Neither agent can step, the stream having ended: the block waits (70_reset_and_hazards.md R231, log entry 8). -/
def idleStep (s : State) : Result :=
  .next (passTurn s)

end Sys2Proof.Machine
end

