-- ==== Sys2Proof/Machine/Step.lean ====
section
/-!
DEFINITION. One step of a run (20_memory.md R53), and placing a word as the host's next one.
-/

namespace Sys2Proof.Machine

/-- One step: a command step of the host, a TICK of the timer, or waiting; stopped once FAULT or REFUSED is set
(60_exceptions.md R204). -/
def step (s : State) : Host.Outcome State Fault Refusal :=
  ifLive s <|
    match s.mover with
    | some .host => hostStep s
    | some .timer => timerStep s
    | none => idleStep s

/-- `s` with the table's word as the next of the host's stream and the next turn the host's, so that the next step
delivers it (log entry 10). -/
def State.withFetchWord (s : State) (nbits w : Nat) : State :=
  { s with stream := tableWord nbits w :: s.stream, turns := .host :: s.turns }

end Sys2Proof.Machine
end

