-- ==== Sys2Proof/Machine/Assembler.lean ====
section
/-!
DEFINITION. The assembly syntax of the commands, one a line, and its inverse, disassembly (30_encoding.md R82 to R84).
Text is a list of characters. Log entry 18 says what of the lexical form the spec leaves open.
-/

namespace Sys2Proof.Machine

/-! ### Lines as data -/

/-- The channel operand: one of the four names, or a number sign and a number (R82). -/
inductive ChanOperand where
  | named (c : Channel)
  | hash (n : Nat)
deriving DecidableEq, Repr

/-- A line that spells a command, with its literals as written (R82). -/
inductive AsmLine where
  | init
  | setfreq (freq : Nat)
  | setdc (chan : ChanOperand) (duty : Nat)
  | start
deriving DecidableEq, Repr

/-- The identifier an operand stands for; none for a number above 255: never truncated (R82). -/
def assembleChan : ChanOperand → Option (BitVec 8)
  | .named c => some (chanCode c)
  | .hash n => if ChanLiteralFits n then some (BitVec.ofNat 8 n) else none

/-- The 32-bit operand of a literal; none above 2^32 - 1: an assembly error, never truncated (R82). -/
def assembleLiteral (n : Nat) : Option (BitVec 32) :=
  if LiteralFits n then some (BitVec.ofNat 32 n) else none

/-- The command a line spells; none is an assembly error (R82). -/
def assembleLine : AsmLine → Option Instr
  | .init => some .init
  | .setfreq f =>
    match assembleLiteral f with
    | some freq => some (.setfreq freq)
    | none => none
  | .setdc c d =>
    match assembleChan c, assembleLiteral d with
    | some chan, some duty => some (.setdc chan duty)
    | _, _ => none
  | .start => some .start

/-- The channel operand that prints an identifier: CH1 to CH4 for 0 to 3, the number form above (R84). -/
def disassembleChan (chan : BitVec 8) : ChanOperand :=
  match chanOf chan with
  | some c => .named c
  | none => .hash chan.toNat

/-- The line of a command (R84). -/
def disassembleInstr : Instr → AsmLine
  | .init => .init
  | .setfreq freq => .setfreq freq.toNat
  | .setdc chan duty => .setdc (disassembleChan chan) duty.toNat
  | .start => .start

/-! ### Printing -/

/-- The character of a digit, upper case. -/
def digitChar (d : Nat) : Char :=
  if d < 10 then Char.ofNat (48 + d) else Char.ofNat (55 + d)

/-- The digits of `n` in a base, the most significant first, put before `rest`; at most `fuel + 1` of them. -/
def digitsBefore (base : Nat) : (fuel n : Nat) → (rest : List Char) → List Char
  | 0, n, rest => digitChar (n % base) :: rest
  | fuel + 1, n, rest =>
    if n < base then digitChar n :: rest
    else digitsBefore base fuel (n / base) (digitChar (n % base) :: rest)

/-- A number in decimal; 20 digits hold every number below 2^64. -/
def printDecimal (n : Nat) : List Char :=
  digitsBefore 10 19 n []

/-- The name of a channel (R82). -/
def channelName : Channel → List Char
  | .ch1 => ['C', 'H', '1']
  | .ch2 => ['C', 'H', '2']
  | .ch3 => ['C', 'H', '3']
  | .ch4 => ['C', 'H', '4']

/-- A channel operand as text (R84). -/
def printChan : ChanOperand → List Char
  | .named c => channelName c
  | .hash n => '#' :: printDecimal n

def initName : List Char := ['I', 'N', 'I', 'T']
def setfreqName : List Char := ['S', 'E', 'T', 'F', 'R', 'E', 'Q']
def setdcName : List Char := ['S', 'E', 'T', 'D', 'C']
def startName : List Char := ['S', 'T', 'A', 'R', 'T']

/-- A line as text, in the canonical upper case (R82, R84). -/
def printLine : AsmLine → List Char
  | .init => initName
  | .setfreq f => setfreqName ++ ' ' :: printDecimal f
  | .setdc c d => setdcName ++ ' ' :: printChan c ++ ',' :: ' ' :: printDecimal d
  | .start => startName

/-- The sixteen hexadecimal digits of a word. -/
def printHex16 (w : Word) : List Char :=
  (List.range 16).map fun k => digitChar (w.toNat / 16 ^ (15 - k) % 16)

/-- The disassembly of any word (R84). -/
def disassemble (w : Word) : List Char :=
  match decode w with
  | .ok i => printLine (disassembleInstr i)
  | .error _ => ['.', 'w', 'o', 'r', 'd', '6', '4', ' ', '0', 'x'] ++ printHex16 w

/-! ### Reading -/

/-- A lower-case letter in upper case, every other character as it is. -/
def upperChar (c : Char) : Char :=
  if 97 ≤ c.toNat ∧ c.toNat ≤ 122 then Char.ofNat (c.toNat - 32) else c

/-- A space between the parts of a line. -/
def isBlank (c : Char) : Bool :=
  c = ' ' || c = '\t' || c = '\r'

/-- The line up to its comment (R82). -/
def stripComment (cs : List Char) : List Char :=
  cs.takeWhile fun c => c ≠ ';'

/-- The text without the blanks around it. -/
def trim (cs : List Char) : List Char :=
  ((cs.dropWhile isBlank).reverse.dropWhile isBlank).reverse

/-- The value of a digit in a base up to 16, of an upper-case text. -/
def digitValue (base : Nat) (c : Char) : Option Nat :=
  let n := c.toNat
  let d := if 48 ≤ n ∧ n ≤ 57 then n - 48 else if 65 ≤ n ∧ n ≤ 70 then n - 55 else 16
  if d < base then some d else none

/-- The number a run of digits spells after the digits read so far; none where a character is no digit. -/
def readDigits (base : Nat) : (acc : Nat) → List Char → Option Nat
  | acc, [] => some acc
  | acc, c :: cs =>
    match digitValue base c with
    | some d => readDigits base (acc * base + d) cs
    | none => none

/-- An unsigned literal, decimal or hexadecimal (R82), of an upper-case text. -/
def readLiteral : List Char → Option Nat
  | [] => none
  | '0' :: 'X' :: [] => none
  | '0' :: 'X' :: ds => readDigits 16 0 ds
  | ds => readDigits 10 0 ds

/-- A channel operand (R82), of an upper-case text. -/
def readChan (cs : List Char) : Option ChanOperand :=
  match cs with
  | '#' :: ds => (readLiteral ds).map .hash
  | _ =>
    if cs = channelName .ch1 then some (.named .ch1)
    else if cs = channelName .ch2 then some (.named .ch2)
    else if cs = channelName .ch3 then some (.named .ch3)
    else if cs = channelName .ch4 then some (.named .ch4)
    else none

/-- The command of a line with a mnemonic, of an upper-case text without comment and outer blanks (R82). -/
def readCommand (cs : List Char) : Option AsmLine :=
  let name := cs.takeWhile fun c => !isBlank c
  let args := trim (cs.dropWhile fun c => !isBlank c)
  if name = initName then
    if args = [] then some .init else none
  else if name = startName then
    if args = [] then some .start else none
  else if name = setfreqName then (readLiteral args).map .setfreq
  else if name = setdcName then
    match readChan (trim (args.takeWhile fun c => c ≠ ',')), args.dropWhile fun c => c ≠ ',' with
    | some chan, _ :: rest => (readLiteral (trim rest)).map (.setdc chan)
    | _, _ => none
  else none

/-- What a line reads as. -/
inductive LineResult where
  /-- No command: blanks and a comment at most. -/
  | empty
  | command (l : AsmLine)
  /-- An assembly error. -/
  | error
deriving DecidableEq, Repr

/-- A line of text (R82): its comment dropped, its letters in upper case. -/
def readLine (cs : List Char) : LineResult :=
  let body := trim ((stripComment cs).map upperChar)
  if body = [] then .empty
  else
    match readCommand body with
    | some l => .command l
    | none => .error

/-- The lines of a text. -/
def splitLines : List Char → List (List Char)
  | [] => [[]]
  | c :: cs =>
    match splitLines cs with
    | [] => [[c]]
    | l :: ls => if c = '\n' then [] :: l :: ls else (c :: l) :: ls

/-- The words of the lines of a program; none where a line is an assembly error. -/
def assembleLines : List (List Char) → Option (List Word)
  | [] => some []
  | l :: ls =>
    match readLine l, assembleLines ls with
    | .empty, some ws => some ws
    | .command a, some ws =>
      match assembleLine a with
      | some i => some (encode i :: ws)
      | none => none
    | _, _ => none

/-- The host stream a program text spells (R82). -/
def assemble (text : List Char) : Option (List Word) :=
  assembleLines (splitLines text)

end Sys2Proof.Machine
end

