-- ==== Sys2Proof/Machine/Registers.lean ====
section
/-!
DEFINITION. The state elements by the names and indices of 10_state.md R35, for tests and claims. No command reads an
element back or addresses one by index: the interface is write-only (R35, 41_channel_driver.md R136).
-/

namespace Sys2Proof.Machine

/-- The offset of a channel in its block of four indices. -/
def chanOffset : Channel → Nat
  | .ch1 => 0
  | .ch2 => 1
  | .ch3 => 2
  | .ch4 => 3

/-- The index of an element (10_state.md R35). -/
def Elem.index : Elem → Nat
  | .phase => 0x00
  | .cnt => 0x01
  | .arrPre => 0x02
  | .arrAct => 0x03
  | .ccrPre c => 0x04 + chanOffset c
  | .ccrAct c => 0x08 + chanOffset c
  | .cce => 0x0C
  | .mode => 0x0D
  | .fault => 0x0E
  | .refused => 0x0F

/-- The element of an index, none outside 0x00 to 0x0F. -/
def elemOf : Nat → Option Elem
  | 0x00 => some .phase
  | 0x01 => some .cnt
  | 0x02 => some .arrPre
  | 0x03 => some .arrAct
  | 0x04 => some (.ccrPre .ch1)
  | 0x05 => some (.ccrPre .ch2)
  | 0x06 => some (.ccrPre .ch3)
  | 0x07 => some (.ccrPre .ch4)
  | 0x08 => some (.ccrAct .ch1)
  | 0x09 => some (.ccrAct .ch2)
  | 0x0A => some (.ccrAct .ch3)
  | 0x0B => some (.ccrAct .ch4)
  | 0x0C => some .cce
  | 0x0D => some .mode
  | 0x0E => some .fault
  | 0x0F => some .refused
  | _ => none

/-- The width of an element in bits; none for FAULT and REFUSED, which are the model's only (10_state.md R35). -/
def Elem.width (c : Config) : Elem → Option Nat
  | .phase => some 2
  | .cnt | .arrPre | .arrAct | .ccrPre _ | .ccrAct _ => some (cntBits c.cntWidth)
  | .cce => some 4
  | .mode => some 16
  | .fault | .refused => none

/-- CCE[4:1] as a number: bit i-1 is CCE[i] (10_state.md R35). -/
def cceBits (b : Bank Bool) : Nat :=
  b.ch1.toNat + 2 * b.ch2.toNat + 4 * b.ch3.toNat + 8 * b.ch4.toNat

/-- The value of an element. FAULT and REFUSED show their code (60_exceptions.md R203). -/
def State.readElem (s : State) : Elem → Nat
  | .phase => phaseCode s.phase
  | .cnt => s.cnt
  | .arrPre => s.arrPre
  | .arrAct => s.arrAct
  | .ccrPre c => s.ccrPre.get c
  | .ccrAct c => s.ccrAct.get c
  | .cce => cceBits s.cce
  | .mode => mode.toNat
  | .fault => faultCodeOf s.fault
  | .refused => reasonCodeOf s.refusedWord

end Sys2Proof.Machine
end

