-- ==== Sys2Proof/Machine/Waveform.lean ====
section
/-!
DEFINITION. Observing a run: the states of its first steps, the words the host delivers in them (20_memory.md R53), and
its waveform, the outputs just after each TICK (45_counter_and_outputs.md R160).
-/

namespace Sys2Proof.Machine

/-- The state `k` steps on, none where a step on the way is not enabled. -/
def stateAfter : Nat → State → Option State
  | 0, s => some s
  | k + 1, s =>
    match step s with
    | .next t => stateAfter k t
    | .fault _ => none
    | .refused _ => none

/-- The word the next step delivers, none where it is no command step. -/
def State.deliversNext (s : State) : Option Word :=
  if s.mover = some .host then s.nextWord else none

/-- The words the host delivers in the first `k` steps, oldest first. -/
def delivered : Nat → State → List Word
  | 0, _ => []
  | k + 1, s =>
    match step s with
    | .next t => s.deliversNext.toList ++ delivered k t
    | .fault _ => []
    | .refused _ => []

/-- The waveform of the first `k` steps: the four outputs in the state just after each TICK step among them. -/
def waveform : Nat → State → List (Bank Bool)
  | 0, _ => []
  | k + 1, s =>
    match step s with
    | .next t => if s.mover = some .timer then t.wave :: waveform k t else waveform k t
    | .fault _ => []
    | .refused _ => []

/-- Run a list of commands, each from the state the one before it left. -/
def execAll : List Instr → State → Result
  | [], s => .next s
  | i :: is, s =>
    match exec i s with
    | .next t => execAll is t
    | .fault r => .fault r
    | .refused r => .refused r

end Sys2Proof.Machine
end

