-- ==== Sys2Proof/Safety.lean ====
section
/-!
DEFINITION. What counts as a safe state and a run: the invariant of 10_state.md R36 and R40, the reachable states, the
infinite runs with a fair timer, and what a host stream last asked for.
-/

namespace Sys2Proof.Machine

/-- Every register holds a value of its width (00_scope.md R14, 10_state.md R36). -/
abbrev State.Fits (s : State) : Prop :=
  s.cnt ≤ maxPeriod s.cfg ∧ s.arrPre ≤ maxPeriod s.cfg ∧ s.arrAct ≤ maxPeriod s.cfg ∧
    s.ccrPre.Forall (· ≤ maxPeriod s.cfg) ∧ s.ccrAct.Forall (· ≤ maxPeriod s.cfg)

/-- The invariant: the configuration is well formed (00_scope.md R12); every register fits its width (R36); once
initialised the period is that of an accepted frequency, so at least 1, and the outputs are enabled (R40 (a), R29);
while running the active period is at least 1 (R40 (b)); at most one of FAULT and REFUSED is set (60_exceptions.md
R205). -/
structure State.Inv (s : State) : Prop where
  config : s.cfg.WellFormed
  fits : s.Fits
  period_accepted : s.phase ≠ .uninitialized → ∃ f, FreqOK s.cfg f ∧ s.arrPre = period s.cfg f
  enabled : s.phase ≠ .uninitialized → s.cce = Bank.all true
  active_pos : s.phase = .running → 1 ≤ s.arrAct
  one_record : s.fault = none ∨ s.refusedWord = none

/-- The states a run can reach from power-on, for any well-formed configuration, any draws of the elements' widths, any
host stream, ending or not, and any interleaving (20_memory.md R53, 70_reset_and_hazards.md R230). -/
inductive Reachable : State → Prop where
  | powerOn (c : Config) (d : Draws) (stream : List Word) (goesOn : Bool) (turns : List Agent) (s : State)
      (built : State.build? c d stream goesOn turns = some s) : Reachable s
  | step (s t : State) (reached : Reachable s) (stepped : Machine.step s = .next t) : Reachable t

/-- `s` with more of the host's stream and of the interleaving settled. -/
def State.settle (ws : List Word) (ts : List Agent) (s : State) : State :=
  { s with stream := s.stream ++ ws, turns := s.turns ++ ts }

/-- `t` is `s` with more of what is open in it settled: any turns, and any words of a host that goes on (log entry
22). -/
def State.Settles (s t : State) : Prop :=
  ∃ (ws : List Word) (ts : List Agent), (ws = [] ∨ s.hostGoesOn = true) ∧ t = s.settle ws ts

/-- An infinite run (20_memory.md R53): every step is taken, and between two steps more of the host's stream and of the
interleaving may be settled, so that a run may have any unending stream and any unending interleaving. -/
def IsRun (r : Nat → State) : Prop :=
  ∀ n, ∃ t, step (r n) = .next t ∧ t.Settles (r (n + 1))

/-- Weak fairness of TICK (45_counter_and_outputs.md R159): where PHASE = 2 from some point on, TICK is taken
infinitely often. Only liveness claims take it as a premise. -/
def WeaklyFair (r : Nat → State) : Prop :=
  (∃ n, ∀ k, n ≤ k → (r k).phase = .running) → ∀ n, ∃ k, n ≤ k ∧ (r k).mover = some .timer

/-- The next step is an update event: a TICK that wraps (45_counter_and_outputs.md R152), or a START past phase 0
(40_timer_core.md R110). -/
def State.UpdatesNext (s : State) : Prop :=
  (s.mover = some .timer ∧ s.arrAct ≤ s.cnt) ∨
    (s.mover = some .host ∧ s.phase ≠ .uninitialized ∧ s.nextWord = some (encode .start))

/-- The frequency in force after a command, where `f` was before it (10_state.md R40 (a)): an accepted SETFREQ changes
it, INIT returns to the default. -/
def freqAfter (c : Config) (f : Nat) : Instr → Nat
  | .init => c.defaultFreqHz
  | .setfreq freq => if FreqOK c freq.toNat then freq.toNat else f
  | .setdc _ _ => f
  | .start => f

/-- The frequency in force after a list of delivered words. -/
def freqAfterWords (c : Config) : Nat → List Word → Nat
  | f, [] => f
  | f, w :: ws =>
    match decode w with
    | .ok i => freqAfterWords c (freqAfter c f i) ws
    | .error _ => f

/-- The fault a command raises for the phase it finds, if any (60_exceptions.md R203). -/
def phaseFault (p : Phase) : Instr → Option FaultKind
  | .init => if p = .running then some .initWhileRunning else none
  | .setfreq _ | .setdc _ _ | .start => if p = .uninitialized then some .useBeforeInit else none

/-- The rejection conditions REJ1 to REJ6 (60_exceptions.md R201): a command that meets one, past its phase check, is a
no-op. -/
def Rejected (c : Config) : Instr → Prop
  | .init => False
  | .setfreq freq =>
    freq.toNat = 0 ∨ c.maxFreqHz < freq.toNat ∨
      (FreqInRange c freq.toNat ∧ c.oversizePeriodPolicy = .reject ∧
        (maxPeriod c < period c freq.toNat ∨ period c freq.toNat < 1))
  | .setdc chan duty => 3 < chan.toNat ∨ 1000 < duty.toNat
  | .start => False

/-- A SETFREQ that raises PeriodOverflow past its phase check (60_exceptions.md R203). -/
def Overflows (c : Config) : Instr → Prop
  | .setfreq freq =>
    FreqInRange c freq.toNat ∧ ¬ FreqOK c freq.toNat ∧ c.oversizePeriodPolicy = .fault
  | .init => False
  | .setdc _ _ => False
  | .start => False

end Sys2Proof.Machine
end

