-- ==== Sys2Proof/Certificates/Slice0/Obligations.lean ====
section
/-!
DEFINITION. The statements about the block, each from the numbered rules of spec/ it cites in OBLIGATIONS.json.
-/

open Sys2Proof Sys2Proof.Machine

/-! ### Encoding -/

/-- Decoding the word of a command gives the command back, for every operand value (30_encoding.md R73 to R78). -/
def Obligations.DecodeEncodeRoundTrip : Prop :=
  ∀ i : Instr, decode (encode i) = .ok i

/-- A word the decoder accepts is the one word of the command it decodes to: no two words spell one command. -/
def Obligations.EncodeDecodeRoundTrip : Prop :=
  ∀ (w : Word) (i : Instr), decode w = .ok i → encode i = w

/-- A word is a command exactly when it matches a row of the opcode table, no word matches two rows, and a decoded
command matches the row of its own mnemonic (30_encoding.md section 4, "Decode is total and unambiguous"). -/
def Obligations.DecoderAcceptsExactlyTheTable : Prop :=
  ∀ w : Word,
    ((∃ i, decode w = .ok i) ↔ ∃ r ∈ opcodeTable, r.Matches w) ∧
      (∀ r ∈ opcodeTable, ∀ q ∈ opcodeTable, r.Matches w → q.Matches w → r = q) ∧
      ∀ i, decode w = .ok i → (rowOf i).Matches w

/-- The decoder's verdict on every word, with the fields read as numbers, and what a refusal does in any phase:
record the reason and the word, and nothing else (30_encoding.md R78). -/
def Obligations.DecoderVerdicts : Prop :=
  (∀ w : Word,
    decode w =
      if w.toNat / 2 ^ 60 = 0 ∨ 5 ≤ w.toNat / 2 ^ 60 then .error .reservedOpcode
      else if w.toNat / 2 ^ 40 % 2 ^ 20 ≠ 0 then .error .reservedBitsNonZero
      else if w.toNat / 2 ^ 60 = 1 then
        if w.toNat % 2 ^ 40 ≠ 0 then .error .reservedBitsNonZero else .ok .init
      else if w.toNat / 2 ^ 60 = 2 then
        if w.toNat / 2 ^ 32 % 2 ^ 8 ≠ 0 then .error .reservedBitsNonZero
        else .ok (.setfreq (BitVec.ofNat 32 w.toNat))
      else if w.toNat / 2 ^ 60 = 3 then
        .ok (.setdc (BitVec.ofNat 8 (w.toNat / 2 ^ 32)) (BitVec.ofNat 32 w.toNat))
      else if w.toNat % 2 ^ 40 ≠ 0 then .error .reservedBitsNonZero
      else .ok .start) ∧
    ∀ (w : Word) (r : RefusalReason) (s : State), s.Live → decode w = .error r →
      deliver w s = .next { s with refusedWord := some ⟨r, w⟩ }

/-- INIT and START are single words; the words of SETFREQ and SETDC are their opcode with the operands in their places,
whatever the operands (30_encoding.md section 2). -/
def Obligations.WordsOfEachCommand : Prop :=
  ∀ w : Word,
    (decode w = .ok .init ↔ w &&& 0xFFFFFFFFFFFFFFFF#64 = 0x1000000000000000#64) ∧
      (decode w = .ok .start ↔ w &&& 0xFFFFFFFFFFFFFFFF#64 = 0x4000000000000000#64) ∧
      (∀ f : BitVec 32, decode w = .ok (.setfreq f) ↔ w.toNat = 0x2000000000000000 + f.toNat) ∧
      ∀ (c : BitVec 8) (d : BitVec 32),
        decode w = .ok (.setdc c d) ↔ w.toNat = 0x3000000000000000 + c.toNat * 2 ^ 32 + d.toNat

/-- Words of 95_test_vectors.md section 2.1 (V-DEC-1, 2, 7, 9, 10, 13, 15, 16, 18), one of every command and reason. -/
def Obligations.SampleWordsDecode : Prop :=
  decode 0x1000000000000000#64 = .ok .init ∧
    decode 0x20000000000003E8#64 = .ok (.setfreq 1000#32) ∧
    decode 0x30000004000001F4#64 = .ok (.setdc 4#8 500#32) ∧
    decode 0x4000000000000000#64 = .ok .start ∧
    decode 0x0000000000000000#64 = .error .reservedOpcode ∧
    decode 0x1000000000000001#64 = .error .reservedBitsNonZero ∧
    decode 0x20000001000003E8#64 = .error .reservedBitsNonZero ∧
    decode 0x30000100000001F4#64 = .error .reservedBitsNonZero ∧
    decode 0x0000000000000001#64 = .error .reservedOpcode

/-- Byte k of a word holds bits 8k+7 to 8k, and eight bytes carry exactly the word they came from (20_memory.md section
1, byte order and alignment). -/
def Obligations.WordBytesLittleEndian : Prop :=
  (∀ (w : Word) (k : Nat), k < 8 →
    (bytesOfWord w)[k]? = some (BitVec.ofNat 8 (w.toNat / 2 ^ (8 * k)))) ∧
    (∀ w : Word, wordOfBytes (bytesOfWord w) = some w) ∧
    ∀ (bs : List Byte) (w : Word), wordOfBytes bs = some w → bytesOfWord w = bs

/-- The assembler reads the disassembly of every accepted word back as that word (30_encoding.md section 5). -/
def Obligations.AssemblyOfDisassembly : Prop :=
  ∀ (w : Word) (i : Instr), decode w = .ok i → assemble (disassemble w) = some [w]

/-- A literal outside its range is an assembly error, and one inside it is never truncated (30_encoding.md section 5). -/
def Obligations.AssemblerNeverTruncates : Prop :=
  (∀ f : Nat, 2 ^ 32 ≤ f → assembleLine (.setfreq f) = none) ∧
    (∀ (c : ChanOperand) (d : Nat), 2 ^ 32 ≤ d → assembleLine (.setdc c d) = none) ∧
    (∀ n d : Nat, 256 ≤ n → assembleLine (.setdc (.hash n) d) = none) ∧
    (∀ f : Nat, f < 2 ^ 32 → ∃ b, assembleLine (.setfreq f) = some (.setfreq b) ∧ b.toNat = f) ∧
    ∀ n d : Nat, n < 256 → d < 2 ^ 32 →
      ∃ b e, assembleLine (.setdc (.hash n) d) = some (.setdc b e) ∧ b.toNat = n ∧ e.toNat = d

/-! ### Parameters and arithmetic -/

/-- The three clauses of a well-formed configuration, written out; the defaults meet them; no machine is built from any
other configuration (00_scope.md R12). -/
def Obligations.OnlyWellFormedConfigsBuild : Prop :=
  (∀ c : Config, c.WellFormed ↔
    (1 ≤ c.maxFreqHz ∧ 2 * c.maxFreqHz ≤ c.tickRateHz) ∧
      ((1 ≤ c.defaultFreqHz ∧ c.defaultFreqHz ≤ c.maxFreqHz) ∧
        1 ≤ c.tickRateHz / c.defaultFreqHz - 1 ∧ c.tickRateHz / c.defaultFreqHz - 1 ≤ maxPeriod c) ∧
      c.tickRateHz ≤ 2 ^ 32 - 1) ∧
    Config.defaults.WellFormed ∧
    (∀ (c : Config) (d : Draws) (ws : List Word) (b : Bool) (ts : List Agent), ¬ c.WellFormed →
      State.build? c d ws b ts = none) ∧
    ∀ (c : Config) (d : Draws) (ws : List Word) (b : Bool) (ts : List Agent), c.WellFormed → d.Fits c →
      State.build? c d ws b ts = some { State.powerOn c d with stream := ws, hostGoesOn := b, turns := ts }

/-- The period of a frequency: no subtraction goes below 0, and an accepted frequency is at most the tick rate
(40_timer_core.md R104). In a well-formed configuration every frequency in range has a period of at least 1. -/
def Obligations.PeriodOfFrequency : Prop :=
  (∀ (c : Config) (f : Nat), 1 ≤ f → f ≤ c.tickRateHz →
    1 ≤ c.tickRateHz / f ∧ period c f = c.tickRateHz / f - 1) ∧
    (∀ (c : Config) (f : Nat), c.WellFormed → FreqOK c f → 1 ≤ f ∧ f ≤ c.tickRateHz) ∧
    ∀ (c : Config) (f : Nat), c.WellFormed → FreqInRange c f → 1 ≤ period c f

/-- Under the defaults exactly the frequencies 16 to 100,000 are accepted (40_timer_core.md, SETFREQ). The defaults are
the instance log entry 2 names. -/
def Obligations.DefaultAcceptedFrequencies : Prop :=
  ∀ f : Nat, FreqOK Config.defaults f ↔ 16 ≤ f ∧ f ≤ 100000

/-- The compare value is the truncated quotient, at most the period, and a 64-bit product computes it exactly
(41_channel_driver.md R131). -/
def Obligations.CompareIsExact : Prop :=
  ∀ p d : Nat, p ≤ 2 ^ 32 - 1 → d ≤ 1000 →
    compareValue p d = p * d / 1000 ∧ p * d < 2 ^ 42 ∧ compareValue p d ≤ p ∧
      (BitVec.ofNat 64 p * BitVec.ofNat 64 d / 1000#64).toNat = compareValue p d

/-- The compare value never exceeds the period, grows with the duty, is 0 at 0 and the period at 1000
(41_channel_driver.md, the compare bound). -/
def Obligations.CompareBoundAndMonotone : Prop :=
  (∀ p d : Nat, DutyOK d → compareValue p d ≤ p) ∧
    (∀ p : Nat, compareValue p 0 = 0 ∧ compareValue p 1000 = p) ∧
    ∀ p d e : Nat, d ≤ e → compareValue p d ≤ compareValue p e

/-- The complementary pair: the compare values of d and 1000 - d add up to the period, or to one less where 1000 does
not divide p * d (41_channel_driver.md, the complementary pair). -/
def Obligations.ComplementaryPairSum : Prop :=
  ∀ p d : Nat, d ≤ 1000 →
    compareValue p d + compareValue p (1000 - d) = if p * d % 1000 = 0 then p else p - 1

/-- The output frequency of an accepted frequency is at least that frequency, and equal exactly where it divides the
tick rate (45_counter_and_outputs.md, the achieved switching frequency). -/
def Obligations.AchievedFrequency : Prop :=
  ∀ (c : Config) (f : Nat), c.WellFormed → FreqOK c f →
    (f : Rat) ≤ achievedHz c (period c f) ∧ (achievedHz c (period c f) = (f : Rat) ↔ f ∣ c.tickRateHz)

/-! ### Reset and the constant elements -/

/-- Power-on reset from any state, with any draws: the phase, FAULT, REFUSED and MODE as the rule gives them, every
other element its draw; no step goes back to phase 0, and none leaves a faulted or refused state; the model's reset
state is in phase 0 with neither FAULT nor REFUSED set (70_reset_and_hazards.md R230). -/
def Obligations.PowerOnResetLeaves : Prop :=
  (∀ (d : Draws) (s : State),
    (s.powerOnReset d).phase = .uninitialized ∧ (s.powerOnReset d).fault = none ∧
      (s.powerOnReset d).refusedWord = none ∧ (s.powerOnReset d).readElem .mode = 0x03F0 ∧
      (s.powerOnReset d).cnt = d.cnt ∧ (s.powerOnReset d).arrPre = d.arrPre ∧
      (s.powerOnReset d).arrAct = d.arrAct ∧ (s.powerOnReset d).ccrPre = d.ccrPre ∧
      (s.powerOnReset d).ccrAct = d.ccrAct ∧ (s.powerOnReset d).cce = d.cce ∧
      (s.powerOnReset d).cfg = s.cfg) ∧
    (∀ s t : State, step s = .next t → s.phase ≠ .uninitialized → t.phase ≠ .uninitialized) ∧
    (∀ s t : State, ¬ s.Live → step s ≠ .next t) ∧
    State.reset.phase = .uninitialized ∧ State.reset.Live

/-- MODE is the constant 0x03F0 with the fields of the table, and every state reads it so (10_state.md R33). -/
def Obligations.ModeIsConstant : Prop :=
  (∀ s : State, s.readElem .mode = 0x03F0) ∧ modeDir = 0#1 ∧ modeCms = 0b00#2 ∧ modeOpm = 0#1 ∧
    modeArpe = 1#1 ∧ modeOcpe = 0b1111#4 ∧ modeOcm = 0b01#2 ∧ modePol = 0#1 ∧ modeRcr = 0b0000#4

/-- The element indices 0x00 to 0x0F name each element once (10_state.md section 3). -/
def Obligations.ElementIndicesAreNames : Prop :=
  (∀ e : Elem, elemOf e.index = some e) ∧ (∀ (n : Nat) (e : Elem), elemOf n = some e → e.index = n) ∧
    ∀ n : Nat, n < 16 ↔ (elemOf n).isSome

/-- No step writes the configuration: it is fixed for the machine (10_state.md, the opening; log entry 1). -/
def Obligations.ConfigNeverChanges : Prop :=
  ∀ s t : State, step s = .next t → t.cfg = s.cfg

/-! ### INIT -/

/-- INIT: what it writes in phases 0 and 1, the fault in phase 2, its word, the default period under the defaults, and
that it enables no TICK (40_timer_core.md R100). -/
def Obligations.InitOutcome : Prop :=
  decode 0x1000000000000000#64 = .ok .init ∧
    (∀ s : State, s.Live → s.phase ≠ .running →
      exec .init s = .next { s with
        phase := .initialized
        cnt := 0
        arrPre := s.cfg.tickRateHz / s.cfg.defaultFreqHz - 1
        ccrPre := ⟨0, 0, 0, 0⟩
        cce := ⟨true, true, true, true⟩ }) ∧
    (∀ s : State, s.Live → s.phase = .running →
      exec .init s = .next { s with fault := some ⟨.initWhileRunning, 0x1000000000000000#64⟩ }) ∧
    (∀ s t : State, s.phase ≠ .running → exec .init s = .next t → ¬ t.TickEnabled) ∧
    defaultPeriod Config.defaults = 9999

/-- INIT twice is INIT once (40_timer_core.md, INIT is idempotent). -/
def Obligations.InitIsIdempotent : Prop :=
  ∀ s t : State, s.phase ≠ .running → exec .init s = .next t → exec .init t = .next t

/-- The frame of INIT: it never writes the active registers, the configuration, REFUSED or the model's own fields, it
writes FAULT only while running, and then nothing else. -/
def Obligations.InitFrame : Prop :=
  ∀ s t : State, exec .init s = .next t →
    (t.cfg = s.cfg ∧ t.arrAct = s.arrAct ∧ t.ccrAct = s.ccrAct ∧ t.refusedWord = s.refusedWord ∧
      t.stream = s.stream ∧ t.hostGoesOn = s.hostGoesOn ∧ t.turns = s.turns ∧ t.draw = s.draw) ∧
      (s.phase ≠ .running → t.fault = s.fault) ∧
      (s.phase = .running →
        t.phase = s.phase ∧ t.cnt = s.cnt ∧ t.arrPre = s.arrPre ∧ t.ccrPre = s.ccrPre ∧ t.cce = s.cce)

/-! ### SETFREQ -/

/-- SETFREQ in each of its cases: before INIT it faults; out of range it is a no-op; in range with a period that does
not fit it is a no-op or the PeriodOverflow fault, as the policy says; else it writes the period (40_timer_core.md
R106). The last clauses are the rule's worked periods. -/
def Obligations.SetfreqOutcome : Prop :=
  (∀ (s : State) (f : BitVec 32), s.Live → s.phase = .uninitialized →
    exec (.setfreq f) s = .next { s with fault := some ⟨.useBeforeInit, encode (.setfreq f)⟩ }) ∧
    (∀ (s : State) (f : BitVec 32), s.Live → s.phase ≠ .uninitialized →
      ¬ (1 ≤ f.toNat ∧ f.toNat ≤ s.cfg.maxFreqHz) → exec (.setfreq f) s = .next s) ∧
    (∀ (s : State) (f : BitVec 32), s.Live → s.phase ≠ .uninitialized →
      1 ≤ f.toNat ∧ f.toNat ≤ s.cfg.maxFreqHz →
      ¬ (1 ≤ period s.cfg f.toNat ∧ period s.cfg f.toNat ≤ maxPeriod s.cfg) →
      exec (.setfreq f) s = .next
        (if s.cfg.oversizePeriodPolicy = .fault then
          { s with fault := some ⟨.periodOverflow, encode (.setfreq f)⟩ } else s)) ∧
    (∀ (s : State) (f : BitVec 32), s.Live → s.phase ≠ .uninitialized →
      1 ≤ f.toNat ∧ f.toNat ≤ s.cfg.maxFreqHz →
      1 ≤ period s.cfg f.toNat ∧ period s.cfg f.toNat ≤ maxPeriod s.cfg →
      exec (.setfreq f) s = .next { s with arrPre := s.cfg.tickRateHz / f.toNat - 1 }) ∧
    period Config.defaults 1000 = 999 ∧ period Config.defaults 3000 = 332 ∧ period Config.defaults 100000 = 9

/-- The frame of SETFREQ: only ARR_PRE and FAULT can change, and never both; in particular no compare value is rescaled
(40_timer_core.md, SETFREQ). -/
def Obligations.SetfreqFrame : Prop :=
  ∀ (s t : State) (f : BitVec 32), exec (.setfreq f) s = .next t →
    t = { s with arrPre := t.arrPre, fault := t.fault } ∧ (t.arrPre = s.arrPre ∨ t.fault = s.fault)

/-! ### SETDC -/

/-- SETDC in each of its cases: before INIT it faults whatever its operands; an identifier of no channel or a duty above
1000 is a no-op; else it writes the compare value of ARR_PRE and the duty to the addressed channel's preload register and
to no other channel (41_channel_driver.md R133). -/
def Obligations.SetdcOutcome : Prop :=
  (∀ (s : State) (b : BitVec 8) (d : BitVec 32), s.Live → s.phase = .uninitialized →
    exec (.setdc b d) s = .next { s with fault := some ⟨.useBeforeInit, encode (.setdc b d)⟩ }) ∧
    (∀ (s : State) (b : BitVec 8) (d : BitVec 32), s.Live → s.phase ≠ .uninitialized →
      3 < b.toNat ∨ 1000 < d.toNat → exec (.setdc b d) s = .next s) ∧
    (∀ (s : State) (b : BitVec 8) (d : BitVec 32) (c : Channel), s.Live → s.phase ≠ .uninitialized →
      b.toNat = chanOffset c → d.toNat ≤ 1000 →
      ∃ t, exec (.setdc b d) s = .next t ∧ t = { s with ccrPre := t.ccrPre } ∧
        t.ccrPre.get c = s.arrPre * d.toNat / 1000 ∧ ∀ c', c' ≠ c → t.ccrPre.get c' = s.ccrPre.get c') ∧
    compareValue 999 500 = 499 ∧ compareValue 999 1000 = 999 ∧ compareValue 999 1 = 0

/-- The frame of SETDC: only the addressed channel's preload compare and FAULT can change. -/
def Obligations.SetdcFrame : Prop :=
  ∀ (s t : State) (b : BitVec 8) (d : BitVec 32), exec (.setdc b d) s = .next t →
    t = { s with ccrPre := t.ccrPre, fault := t.fault } ∧
      ∀ c : Channel, b.toNat ≠ chanOffset c → t.ccrPre.get c = s.ccrPre.get c

/-! ### START -/

/-- START in each of its cases: before INIT it faults; else it copies the preload registers into the active ones, sets
the counter to 0 only under the parameter, and runs the counter (40_timer_core.md R109, R110). -/
def Obligations.StartOutcome : Prop :=
  decode 0x4000000000000000#64 = .ok .start ∧
    (∀ s : State, s.Live → s.phase = .uninitialized →
      exec .start s = .next { s with fault := some ⟨.useBeforeInit, 0x4000000000000000#64⟩ }) ∧
    (∀ s : State, s.Live → s.phase ≠ .uninitialized → s.cfg.forcedUpdateResetsCounter = false →
      exec .start s = .next { s with phase := .running, arrAct := s.arrPre, ccrAct := s.ccrPre }) ∧
    ∀ s : State, s.Live → s.phase ≠ .uninitialized → s.cfg.forcedUpdateResetsCounter = true →
      exec .start s = .next { s with phase := .running, arrAct := s.arrPre, ccrAct := s.ccrPre, cnt := 0 }

/-- START changes nothing while running when no preload is pending and the forced update keeps the counter
(40_timer_core.md, START is idempotent in phase 2 when nothing is pending). -/
def Obligations.StartIsIdempotentWhenNothingPending : Prop :=
  ∀ s : State, s.Live → s.phase = .running → s.arrPre = s.arrAct →
    (∀ c : Channel, s.ccrPre.get c = s.ccrAct.get c) → s.cfg.forcedUpdateResetsCounter = false →
    exec .start s = .next s

/-- The frame of START: it never writes the preload registers, the enables, REFUSED, the configuration or the model's
own fields; it writes the counter only under the parameter, FAULT only in phase 0, and then nothing else. -/
def Obligations.StartFrame : Prop :=
  ∀ s t : State, exec .start s = .next t →
    (t.cfg = s.cfg ∧ t.arrPre = s.arrPre ∧ t.ccrPre = s.ccrPre ∧ t.cce = s.cce ∧
      t.refusedWord = s.refusedWord ∧ t.stream = s.stream ∧ t.hostGoesOn = s.hostGoesOn ∧ t.turns = s.turns ∧
      t.draw = s.draw) ∧
      (s.cfg.forcedUpdateResetsCounter = false → t.cnt = s.cnt) ∧
      (s.phase ≠ .uninitialized → t.fault = s.fault) ∧
      (s.phase = .uninitialized →
        t.phase = s.phase ∧ t.cnt = s.cnt ∧ t.arrAct = s.arrAct ∧ t.ccrAct = s.ccrAct)

/-- INIT, SETFREQ, the four SETDCs, then START: the first cycle already has the requested period and duties
(70_reset_and_hazards.md section 2, the recommended sequence). -/
def Obligations.RecommendedBootSequence : Prop :=
  ∀ (s : State) (f d1 d2 d3 d4 : BitVec 32), s.Live → s.phase ≠ .running → FreqOK s.cfg f.toNat →
    DutyOK d1.toNat → DutyOK d2.toNat → DutyOK d3.toNat → DutyOK d4.toNat →
    ∃ t, execAll [.init, .setfreq f, .setdc 0#8 d1, .setdc 1#8 d2, .setdc 2#8 d3, .setdc 3#8 d4, .start] s = .next t ∧
      t.TickEnabled ∧ t.cnt = 0 ∧ t.arrAct = period s.cfg f.toNat ∧
      t.ccrAct = ⟨compareValue (period s.cfg f.toNat) d1.toNat, compareValue (period s.cfg f.toNat) d2.toNat,
        compareValue (period s.cfg f.toNat) d3.toNat, compareValue (period s.cfg f.toNat) d4.toNat⟩ ∧
      t.cce = Bank.all true

/-! ### Phases, faults, rejections -/

/-- What each command does to the phase (40_timer_core.md, the phase state machine). -/
def Obligations.PhaseStateMachine : Prop :=
  ∀ (i : Instr) (s t : State), exec i s = .next t →
    t.phase =
      match s.phase, i with
      | .uninitialized, .init => .initialized
      | .uninitialized, _ => .uninitialized
      | .initialized, .start => .running
      | .initialized, _ => .initialized
      | .running, _ => .running

/-- No step resets the block: the phase never goes back, and INIT, which faults in phase 2, leaves the active registers
alone (70_reset_and_hazards.md R232). -/
def Obligations.NoCommandResets : Prop :=
  (∀ s t : State, step s = .next t → phaseCode s.phase ≤ phaseCode t.phase) ∧
    (∀ s : State, s.Live → s.phase = .running →
      exec .init s = .next { s with fault := some ⟨.initWhileRunning, encode .init⟩ }) ∧
    ∀ s t : State, exec .init s = .next t → t.arrAct = s.arrAct ∧ t.ccrAct = s.ccrAct

/-- The fault kinds: each is raised in its condition, records its command word, is raised in no other condition, and
has its code; the refusal reasons have theirs (60_exceptions.md R203). -/
def Obligations.FaultKindsAndCodes : Prop :=
  (∀ (i : Instr) (s : State), s.Live → s.phase = .uninitialized → i ≠ .init →
    exec i s = .next { s with fault := some ⟨.useBeforeInit, encode i⟩ }) ∧
    (∀ s : State, s.Live → s.phase = .running →
      exec .init s = .next { s with fault := some ⟨.initWhileRunning, encode .init⟩ }) ∧
    (∀ (f : BitVec 32) (s : State), s.Live → s.phase ≠ .uninitialized →
      s.cfg.oversizePeriodPolicy = .fault → FreqInRange s.cfg f.toNat → ¬ FreqOK s.cfg f.toNat →
      exec (.setfreq f) s = .next { s with fault := some ⟨.periodOverflow, encode (.setfreq f)⟩ }) ∧
    (∀ (i : Instr) (s t : State), exec i s = .next t → t.fault ≠ none →
      (s.phase = .uninitialized ∧ i ≠ .init) ∨ (s.phase = .running ∧ i = .init) ∨
        (s.phase ≠ .uninitialized ∧ Overflows s.cfg i)) ∧
    (∀ s : State, s.Live → s.readElem .fault = 0 ∧ s.readElem .refused = 0) ∧
    (∀ (s : State) (w : Word),
      (raiseFault .useBeforeInit w s).readElem .fault = 1 ∧
        (raiseFault .initWhileRunning w s).readElem .fault = 2 ∧
        (raiseFault .periodOverflow w s).readElem .fault = 3) ∧
    ∀ (s : State) (w : Word),
      (refuseWord .reservedOpcode w s).readElem .refused = 1 ∧
        (refuseWord .reservedBitsNonZero w s).readElem .refused = 2

/-- A command that meets a rejection condition, past its phase check, writes no state element, and the host stream
moves on to its next word (60_exceptions.md R201, R202). -/
def Obligations.RejectedCommandsWriteNothing : Prop :=
  ∀ (i : Instr) (s : State), s.Live → s.phase ≠ .uninitialized → Rejected s.cfg i →
    exec i s = .next s ∧
      (s.mover = some .host → s.nextWord = some (encode i) →
        step s = .next { s with stream := s.stream.tail, turns := s.turns.tail, draw := s.draw + 1 })

/-- The order of the checks of one delivered word, and that it has exactly one outcome: refusal, then phase fault, then
rejection or PeriodOverflow, then commit with neither FAULT nor REFUSED set (60_exceptions.md section 2, the order of
checks). -/
def Obligations.OneOutcomePerWord : Prop :=
  ∀ (w : Word) (s : State), s.Live →
    (∀ r, decode w = .error r → deliver w s = .next { s with refusedWord := some ⟨r, w⟩ }) ∧
      ∀ i, decode w = .ok i →
        (∀ k, phaseFault s.phase i = some k → deliver w s = .next { s with fault := some ⟨k, w⟩ }) ∧
          (phaseFault s.phase i = none → Rejected s.cfg i → deliver w s = .next s) ∧
          (phaseFault s.phase i = none → Overflows s.cfg i →
            deliver w s = .next { s with fault := some ⟨.periodOverflow, w⟩ }) ∧
          (phaseFault s.phase i = none → ¬ Rejected s.cfg i → ¬ Overflows s.cfg i →
            ∃ t, deliver w s = .next t ∧ t.Live)

/-- What a fault or a refusal does: it writes nothing but its record; from then on no command and no TICK is enabled;
power-on reset leaves the state (60_exceptions.md R204). -/
def Obligations.FaultsAndRefusalsAreQuiescent : Prop :=
  (∀ (i : Instr) (s t : State), exec i s = .next t → t.fault ≠ none → t = { s with fault := t.fault }) ∧
    (∀ (w : Word) (s t : State), deliver w s = .next t → t.refusedWord ≠ none →
      t = { s with refusedWord := t.refusedWord }) ∧
    (∀ s : State, ¬ s.Live →
      (∀ i t, exec i s ≠ .next t) ∧ (∀ w t, deliver w s ≠ .next t) ∧ (∀ t, step s ≠ .next t) ∧
        ¬ s.TickEnabled ∧ s.mover = none) ∧
    ∀ (d : Draws) (s : State), (s.powerOnReset d).Live

/-! ### One step of a run -/

/-- A step whose turn is the host's runs the command its next word decodes to, on the state with that word taken from
the stream, the turn used up and the free values' counter advanced (20_memory.md section 2). -/
def Obligations.StepRunsTheDecodedCommand : Prop :=
  ∀ (s : State) (w : Word) (i : Instr),
    s.mover = some .host → s.nextWord = some w → decode w = .ok i →
    step s = exec i { s with stream := s.stream.tail, turns := s.turns.tail, draw := s.draw + 1 }

/-- The other steps: a refused word is recorded, the timer ticks, and where neither agent can step the block waits
(20_memory.md section 2, 70_reset_and_hazards.md section 1; waiting is log entry 8). -/
def Obligations.StepRefusesTicksOrWaits : Prop :=
  (∀ (s : State) (w : Word) (r : RefusalReason),
    s.mover = some .host → s.nextWord = some w → decode w = .error r →
    step s = .next { s with
      stream := s.stream.tail, turns := s.turns.tail, draw := s.draw + 1, refusedWord := some ⟨r, w⟩ }) ∧
    (∀ s : State, s.mover = some .timer →
      step s = .next (tick { s with turns := s.turns.tail, draw := s.draw + 1 })) ∧
    ∀ s : State, s.Live → s.mover = none →
      step s = .next { s with turns := s.turns.tail, draw := s.draw + 1 }

/-- Where both agents can step, either may (20_memory.md section 2): that the settled turn decides is the model's choice,
log entry 5 (DESIGN CHOICE). A settled turn of the timer makes a TICK wherever TICK is enabled. Where one agent can
step, it does. What the host has to deliver: the settled words in order, then a word no law fixes or the end of the
stream, the model's choice too, log entry 22 (DESIGN CHOICE). -/
def Obligations.EitherAgentMayStepNext : Prop :=
  (∀ (s : State) (a : Agent) (ts : List Agent), s.TickEnabled → s.nextWord ≠ none → s.turns = a :: ts →
    s.mover = some a) ∧
    (∀ (s : State) (ts : List Agent), s.phase = .running → s.fault = none → s.refusedWord = none →
      s.turns = .timer :: ts → s.mover = some .timer) ∧
    (∀ s : State, s.TickEnabled → s.nextWord = none → s.mover = some .timer) ∧
    (∀ s : State, s.Live → s.phase ≠ .running → s.nextWord ≠ none → s.mover = some .host) ∧
    (∀ s : State, s.phase ≠ .running → s.nextWord = none → s.mover = none) ∧
    (∀ (s : State) (w : Word) (ws : List Word), s.stream = w :: ws → s.nextWord = some w) ∧
    ∀ s : State, s.nextWord = none ↔ s.stream = [] ∧ s.hostGoesOn = false

/-- The step after placing a table word runs the instruction it decodes to (the model's own, log entry 10). -/
def Obligations.PlacedWordRunsNext : Prop :=
  ∀ (s : State) (nbits w : Nat) (i : Instr), s.Live → decodeTableWord nbits w = some i →
    step (s.withFetchWord nbits w) = exec i { s with draw := s.draw + 1 }

/-! ### The counter and the outputs -/

/-- TICK is enabled exactly in phase 2 with neither FAULT nor REFUSED set, and a step in any other state is no TICK
(45_counter_and_outputs.md R150). -/
def Obligations.TickEnabledExactly : Prop :=
  (∀ s : State, s.timerReady = true ↔ s.phase = .running ∧ s.fault = none ∧ s.refusedWord = none) ∧
    ∀ s : State, s.mover = some .timer → s.phase = .running ∧ s.fault = none ∧ s.refusedWord = none

/-- One TICK: below the period it counts up, within the counter's width; at or above it, it wraps to 0 and copies the
preload registers into the active ones; nothing else changes (45_counter_and_outputs.md R151, R152). -/
def Obligations.TickCountsOrWraps : Prop :=
  (∀ s : State, s.cnt < s.arrAct → tick s = { s with cnt := s.cnt + 1 }) ∧
    (∀ s : State, s.cnt < s.arrAct → s.arrAct ≤ maxPeriod s.cfg → (tick s).cnt ≤ maxPeriod s.cfg) ∧
    ∀ s : State, s.arrAct ≤ s.cnt → tick s = { s with cnt := 0, arrAct := s.arrPre, ccrAct := s.ccrPre }

/-- A START while running may leave the counter above the new period: the next TICK then wraps and makes an update
event, and until it the outputs follow the new compare values (45_counter_and_outputs.md R158). -/
def Obligations.CounterAboveThePeriodWrapsNext : Prop :=
  ∀ s : State, s.Live → s.phase = .running → s.cfg.forcedUpdateResetsCounter = false → s.arrPre < s.cnt →
    ∃ t, exec .start s = .next t ∧ t.arrAct < t.cnt ∧ t.cnt = s.cnt ∧
      (∀ c : Channel, t.out c = (s.cce.get c && decide (s.cnt < s.ccrPre.get c))) ∧
      (tick t).cnt = 0 ∧ (tick t).arrAct = t.arrPre ∧ (tick t).ccrAct = t.ccrPre

/-- The output function in phase 2 with neither FAULT nor REFUSED set: high exactly while the channel is enabled and the
counter is below its active compare value; a compare value of 0 is permanently low (45_counter_and_outputs.md R154). -/
def Obligations.OutputFunction : Prop :=
  (∀ (s : State) (c : Channel), s.Live → s.phase = .running →
    (s.out c = true ↔ s.cce.get c = true ∧ s.cnt < s.ccrAct.get c)) ∧
    ∀ (s : State) (c : Channel), s.Live → s.phase = .running → s.ccrAct.get c = 0 → s.out c = false

/-- In phase 2 the output function is the same in a state with FAULT or REFUSED set: the model's reading, log entry 21
(DEDUCED), of the output function of 45_counter_and_outputs.md, defined when PHASE = 2 and left open only outside phase
2, and of 10_state.md section 2, where OUT is a function of CNT, CCR_ACT, CCE and PHASE alone. No claim about a chip
after a fault (60_exceptions.md section 2). -/
def Obligations.OutputFunctionAfterAFault : Prop :=
  ∀ (s : State) (c : Channel), ¬ s.Live → s.phase = .running →
    (s.out c = true ↔ s.cce.get c = true ∧ s.cnt < s.ccrAct.get c)

/-- One cycle with no command in it: the counter runs 0, 1, ..., ARR_ACT, and the TICK after that wraps and latches
(45_counter_and_outputs.md, the cycle length). -/
def Obligations.CycleLength : Prop :=
  ∀ s : State, s.TickEnabled → s.cnt = 0 → delivered (s.arrAct + 1) s = [] →
    (∀ k : Nat, k ≤ s.arrAct →
      ∃ t, stateAfter k s = some t ∧ t.cnt = k ∧ t.arrAct = s.arrAct ∧ t.ccrAct = s.ccrAct) ∧
      ∃ t, stateAfter (s.arrAct + 1) s = some t ∧ t.cnt = 0 ∧ t.arrAct = s.arrPre ∧ t.ccrAct = s.ccrPre

/-- The duty fraction: over one cycle with no command in it an enabled output is high on exactly min(c, a + 1) of the
a + 1 ticks, the first ones (45_counter_and_outputs.md, the duty fraction). -/
def Obligations.DutyFraction : Prop :=
  ∀ (s : State) (c : Channel), s.TickEnabled → s.cnt = 0 → s.cce.get c = true →
    delivered (s.arrAct + 1) s = [] →
    (∀ k : Nat, k ≤ s.arrAct → ∃ t, stateAfter k s = some t ∧ (t.out c = true ↔ k < s.ccrAct.get c)) ∧
      (List.range (s.arrAct + 1)).countP (fun k => ((stateAfter k s).map (·.out c)).getD false) =
        min (s.ccrAct.get c) (s.arrAct + 1)

/-- Preload latency, for every stream and interleaving in which no START is delivered: until ARR_ACT - CNT ticks have passed the active registers
are those of before, the counter has advanced by the ticks, and the TICK after that makes the preload values of its moment
active (70_reset_and_hazards.md, preload latency). -/
def Obligations.PreloadLatency : Prop :=
  ∀ (k : Nat) (s t : State), s.TickEnabled → s.cnt ≤ s.arrAct → (∀ w ∈ delivered k s, w ≠ encode .start) →
    stateAfter k s = some t → (waveform k s).length ≤ s.arrAct - s.cnt →
    (t.cnt = s.cnt + (waveform k s).length ∧ t.arrAct = s.arrAct ∧ t.ccrAct = s.ccrAct) ∧
      ((waveform k s).length = s.arrAct - s.cnt → t.mover = some .timer →
        ∃ u, step t = .next u ∧ u.cnt = 0 ∧ u.arrAct = t.arrPre ∧ u.ccrAct = t.ccrPre)

/-- What the preload registers hold does not show before the cycle boundary: two runs that differ only in them have one
waveform for every stream and interleaving in which no START is delivered, until ARR_ACT - CNT ticks have passed (45_counter_and_outputs.md, the
waveform observation). -/
def Obligations.PreloadsDoNotShowMidCycle : Prop :=
  ∀ (k : Nat) (s : State) (p : Nat) (q : Bank Nat), s.TickEnabled → s.cnt ≤ s.arrAct →
    (∀ w ∈ delivered k s, w ≠ encode .start) → (waveform k s).length ≤ s.arrAct - s.cnt →
    waveform k { s with arrPre := p, ccrPre := q } = waveform k s

/-- Only an update event writes the active registers, and it copies the preload ones (10_state.md section 2). -/
def Obligations.OnlyUpdateEventsWriteActive : Prop :=
  ∀ s t : State, step s = .next t → t.arrAct ≠ s.arrAct ∨ t.ccrAct ≠ s.ccrAct →
    s.UpdatesNext ∧ t.arrAct = s.arrPre ∧ t.ccrAct = s.ccrPre

/-- Who writes the other elements: ARR_PRE only INIT and SETFREQ, a preload compare only INIT and the SETDC of its
channel, CCE only INIT, CNT only TICK, INIT and START under the parameter (10_state.md section 2). -/
def Obligations.WritersOfEachElement : Prop :=
  ∀ s t : State, step s = .next t →
    (t.arrPre ≠ s.arrPre →
      ∃ i, s.mover = some .host ∧ s.nextWord = some (encode i) ∧ (i = .init ∨ ∃ f, i = .setfreq f)) ∧
      (∀ c : Channel, t.ccrPre.get c ≠ s.ccrPre.get c →
        ∃ i, s.mover = some .host ∧ s.nextWord = some (encode i) ∧
          (i = .init ∨ ∃ b d, i = .setdc b d ∧ b.toNat = chanOffset c)) ∧
      (t.cce ≠ s.cce → s.mover = some .host ∧ s.nextWord = some (encode .init)) ∧
      (t.cnt ≠ s.cnt → s.mover = some .timer ∨
        ∃ i, s.mover = some .host ∧ s.nextWord = some (encode i) ∧
          (i = .init ∨ (i = .start ∧ s.cfg.forcedUpdateResetsCounter = true)))

/-! ### Invariants and whole runs -/

/-- The invariant holds in every state a machine is built in, whatever the draws, and in the model's reset state. -/
def Obligations.InvariantAtPowerOn : Prop :=
  (∀ (c : Config) (d : Draws) (ws : List Word) (b : Bool) (ts : List Agent) (s : State),
    State.build? c d ws b ts = some s → s.Inv) ∧ State.reset.Inv

/-- Every step keeps the invariant, from every state that meets it: among its clauses, that ARR_PRE is the period of an
accepted frequency and the outputs are enabled once initialised (10_state.md section 7 (a), section 2). -/
def Obligations.StepKeepsInvariant : Prop :=
  ∀ s t : State, s.Inv → step s = .next t → t.Inv

/-- What holds in every reachable state with neither FAULT nor REFUSED set (10_state.md section 7, (a), (b), (c), (e),
and CCE's rule of section 2). -/
def Obligations.ReachableInvariants : Prop :=
  ∀ s : State, Reachable s → s.Live →
    (s.phase ≠ .uninitialized →
      (1 ≤ s.arrPre ∧ s.arrPre ≤ maxPeriod s.cfg) ∧ (∃ f, FreqOK s.cfg f ∧ s.arrPre = period s.cfg f) ∧
        (∀ c : Channel, s.ccrPre.get c ≤ maxPeriod s.cfg ∧ s.cce.get c = true)) ∧
      (s.phase = .running → (1 ≤ s.arrAct ∧ s.arrAct ≤ maxPeriod s.cfg) ∧ s.cnt ≤ maxPeriod s.cfg)

/-- A compare value above the period is reachable: that it is not is no invariant (10_state.md section 7 (d)). -/
def Obligations.StaleCompareIsReachable : Prop :=
  ∃ s : State, Reachable s ∧ s.Live ∧ s.phase = .running ∧ s.arrPre < s.ccrPre.get .ch1

/-- The period is that of the frequency most recently accepted since the last INIT, or of the default: for every run, every
stream and every interleaving, computed from the delivered words alone (10_state.md section 7 (a)). -/
def Obligations.PeriodOfTheFrequencyInForce : Prop :=
  ∀ (k : Nat) (s t : State) (f : Nat), s.phase ≠ .uninitialized → s.arrPre = period s.cfg f →
    stateAfter k s = some t → t.Live →
    t.arrPre = period s.cfg (freqAfterWords s.cfg f (delivered k s))

/-- The words are delivered in the order of the host's stream: what a run has delivered, with what is still settled
after it, is the settled stream with the words a host that goes on has added (20_memory.md section 2; that the stream is
held as settled words and a host that goes on is the model's choice, log entry 22). -/
def Obligations.DeliveredInStreamOrder : Prop :=
  ∀ (k : Nat) (s t : State), stateAfter k s = some t →
    ∃ ws : List Word, delivered k s ++ t.stream = s.stream ++ ws ∧ (s.hostGoesOn = false → ws = []) ∧
      (t.stream ≠ [] → ws = [])

/-- Every infinite interleaving of the two agents, with every unending stream, is a run: from a running state with
nothing settled and a host that goes on, for any agent at each step and any words for the host's steps that neither
fault nor are refused (20_memory.md section 2; 45_counter_and_outputs.md, fairness: no rate is fixed). That a run
settles the stream and the turns as it goes is the model's choice, log entries 5 and 22. -/
def Obligations.EveryInfiniteInterleavingIsARun : Prop :=
  ∀ (s : State) (agents : Nat → Agent) (words : Nat → Word),
    s.TickEnabled → s.hostGoesOn = true → s.stream = [] → s.turns = [] →
    (∀ n, ∃ i, decode (words n) = .ok i ∧ i ≠ .init ∧ ¬ Overflows s.cfg i) →
    ∃ r : Nat → State, s.Settles (r 0) ∧ IsRun r ∧
      ∀ n, (r n).mover = some (agents n) ∧ (agents n = .host → (r n).nextWord = some (words n))

/-- Under weak fairness of TICK an update event keeps coming while the timer runs, whatever the host delivers and
however long it goes on (45_counter_and_outputs.md, fairness). -/
def Obligations.UpdateEventsKeepComing : Prop :=
  ∀ r : Nat → State, IsRun r → WeaklyFair r → ∀ n, (r n).phase = .running → ∃ m, n ≤ m ∧ (r m).UpdatesNext
end

