-- ==== Sys2Proof/Laws/Decode.lean ====
section
/-!
SUPPORT. The fields of a word as numbers, the word put together from fields, and what a row's mask keeps.
-/

namespace Sys2Proof

theorem toNat_ofFields (op : BitVec 4) (rsv : BitVec 20) (chan : BitVec 8) (val : BitVec 32) :
    (ofFields op rsv chan val).toNat = op.toNat * 2 ^ 60 + rsv.toNat * 2 ^ 40 + chan.toNat * 2 ^ 32 + val.toNat := by
  simp only [ofFields, BitVec.toNat_append]
  rw [← Nat.shiftLeft_add_eq_or_of_lt val.isLt, ← Nat.shiftLeft_add_eq_or_of_lt chan.isLt,
    ← Nat.shiftLeft_add_eq_or_of_lt rsv.isLt]
  simp only [Nat.shiftLeft_eq]
  omega

theorem toNat_opField (w : Word) : (opField w).toNat = w.toNat / 2 ^ 60 := by
  have := w.isLt
  simp only [opField, BitVec.extractLsb'_toNat, Nat.shiftRight_eq_div_pow]
  omega

theorem toNat_rsvField (w : Word) : (rsvField w).toNat = w.toNat / 2 ^ 40 % 2 ^ 20 := by
  simp only [rsvField, BitVec.extractLsb'_toNat, Nat.shiftRight_eq_div_pow]

theorem toNat_chanField (w : Word) : (chanField w).toNat = w.toNat / 2 ^ 32 % 2 ^ 8 := by
  simp only [chanField, BitVec.extractLsb'_toNat, Nat.shiftRight_eq_div_pow]

theorem toNat_valField (w : Word) : (valField w).toNat = w.toNat % 2 ^ 32 := by
  simp only [valField, BitVec.extractLsb'_toNat, Nat.shiftRight_eq_div_pow, pow_zero, Nat.div_one]

@[simp] theorem opField_ofFields (op : BitVec 4) (rsv : BitVec 20) (chan : BitVec 8) (val : BitVec 32) :
    opField (ofFields op rsv chan val) = op := by
  apply BitVec.eq_of_toNat_eq
  rw [toNat_opField, toNat_ofFields]
  omega

@[simp] theorem rsvField_ofFields (op : BitVec 4) (rsv : BitVec 20) (chan : BitVec 8) (val : BitVec 32) :
    rsvField (ofFields op rsv chan val) = rsv := by
  apply BitVec.eq_of_toNat_eq
  rw [toNat_rsvField, toNat_ofFields]
  omega

@[simp] theorem chanField_ofFields (op : BitVec 4) (rsv : BitVec 20) (chan : BitVec 8) (val : BitVec 32) :
    chanField (ofFields op rsv chan val) = chan := by
  apply BitVec.eq_of_toNat_eq
  rw [toNat_chanField, toNat_ofFields]
  omega

@[simp] theorem valField_ofFields (op : BitVec 4) (rsv : BitVec 20) (chan : BitVec 8) (val : BitVec 32) :
    valField (ofFields op rsv chan val) = val := by
  apply BitVec.eq_of_toNat_eq
  rw [toNat_valField, toNat_ofFields]
  omega

/-- No bit of a word is outside its four fields. -/
theorem ofFields_fields (w : Word) : ofFields (opField w) (rsvField w) (chanField w) (valField w) = w := by
  apply BitVec.eq_of_toNat_eq
  rw [toNat_ofFields, toNat_opField, toNat_rsvField, toNat_chanField, toNat_valField]
  omega

/-- A mask of the bits from `n` up keeps the word but for its low `n` bits. -/
theorem toNat_and_highMask {n : Nat} {w m : Word} (hm : ∀ i : Fin 64, m[i.val] = decide (n ≤ i.val)) :
    (w &&& m).toNat = w.toNat / 2 ^ n * 2 ^ n := by
  have key : w &&& m = w >>> n <<< n := by
    ext i hi
    have hbit := hm ⟨i, hi⟩
    simp only at hbit
    by_cases h : n ≤ i
    · simp [hbit, h, BitVec.getLsbD_eq_getElem hi]
    · simp [hbit, h, Nat.lt_of_not_le h]
  have hw := w.isLt
  have hle := Nat.div_mul_le_self w.toNat (2 ^ n)
  rw [key]
  simp only [BitVec.toNat_shiftLeft, BitVec.toNat_ushiftRight, Nat.shiftLeft_eq, Nat.shiftRight_eq_div_pow]
  omega

theorem setfreqRow_matches (w : Word) : setfreqRow.Matches w ↔ w.toNat / 2 ^ 32 = 0x20000000 := by
  have h : (w &&& setfreqRow.mask).toNat = w.toNat / 2 ^ 32 * 2 ^ 32 := toNat_and_highMask (by decide)
  unfold TableRow.Matches
  rw [← BitVec.toNat_inj, h, show setfreqRow.pattern.toNat = 0x20000000 * 2 ^ 32 from rfl]
  omega

theorem setdcRow_matches (w : Word) : setdcRow.Matches w ↔ w.toNat / 2 ^ 40 = 0x300000 := by
  have h : (w &&& setdcRow.mask).toNat = w.toNat / 2 ^ 40 * 2 ^ 40 := toNat_and_highMask (by decide)
  unfold TableRow.Matches
  rw [← BitVec.toNat_inj, h, show setdcRow.pattern.toNat = 0x300000 * 2 ^ 40 from rfl]
  omega

end Sys2Proof
end

