-- ==== Sys2Proof/Laws/State.lean ====
section
/-!
SUPPORT. One lemma per field of the state for each named write, so that no proof unfolds a record update.
-/

namespace Sys2Proof.Machine

section Raisefault
variable (k : FaultKind) (w : Word) (s : State)

@[simp] theorem raiseFault_cfg : (raiseFault k w s).cfg = s.cfg := rfl
@[simp] theorem raiseFault_phase : (raiseFault k w s).phase = s.phase := rfl
@[simp] theorem raiseFault_cnt : (raiseFault k w s).cnt = s.cnt := rfl
@[simp] theorem raiseFault_arrPre : (raiseFault k w s).arrPre = s.arrPre := rfl
@[simp] theorem raiseFault_arrAct : (raiseFault k w s).arrAct = s.arrAct := rfl
@[simp] theorem raiseFault_ccrPre : (raiseFault k w s).ccrPre = s.ccrPre := rfl
@[simp] theorem raiseFault_ccrAct : (raiseFault k w s).ccrAct = s.ccrAct := rfl
@[simp] theorem raiseFault_cce : (raiseFault k w s).cce = s.cce := rfl
@[simp] theorem raiseFault_fault : (raiseFault k w s).fault = some ⟨k, w⟩ := rfl
@[simp] theorem raiseFault_refusedWord : (raiseFault k w s).refusedWord = s.refusedWord := rfl
@[simp] theorem raiseFault_stream : (raiseFault k w s).stream = s.stream := rfl
@[simp] theorem raiseFault_hostGoesOn : (raiseFault k w s).hostGoesOn = s.hostGoesOn := rfl
@[simp] theorem raiseFault_turns : (raiseFault k w s).turns = s.turns := rfl
@[simp] theorem raiseFault_draw : (raiseFault k w s).draw = s.draw := rfl

end Raisefault

section Refuseword
variable (r : RefusalReason) (w : Word) (s : State)

@[simp] theorem refuseWord_cfg : (refuseWord r w s).cfg = s.cfg := rfl
@[simp] theorem refuseWord_phase : (refuseWord r w s).phase = s.phase := rfl
@[simp] theorem refuseWord_cnt : (refuseWord r w s).cnt = s.cnt := rfl
@[simp] theorem refuseWord_arrPre : (refuseWord r w s).arrPre = s.arrPre := rfl
@[simp] theorem refuseWord_arrAct : (refuseWord r w s).arrAct = s.arrAct := rfl
@[simp] theorem refuseWord_ccrPre : (refuseWord r w s).ccrPre = s.ccrPre := rfl
@[simp] theorem refuseWord_ccrAct : (refuseWord r w s).ccrAct = s.ccrAct := rfl
@[simp] theorem refuseWord_cce : (refuseWord r w s).cce = s.cce := rfl
@[simp] theorem refuseWord_fault : (refuseWord r w s).fault = s.fault := rfl
@[simp] theorem refuseWord_refusedWord : (refuseWord r w s).refusedWord = some ⟨r, w⟩ := rfl
@[simp] theorem refuseWord_stream : (refuseWord r w s).stream = s.stream := rfl
@[simp] theorem refuseWord_hostGoesOn : (refuseWord r w s).hostGoesOn = s.hostGoesOn := rfl
@[simp] theorem refuseWord_turns : (refuseWord r w s).turns = s.turns := rfl
@[simp] theorem refuseWord_draw : (refuseWord r w s).draw = s.draw := rfl

end Refuseword

section Writeperiod
variable (p : Nat) (s : State)

@[simp] theorem writePeriod_cfg : (writePeriod p s).cfg = s.cfg := rfl
@[simp] theorem writePeriod_phase : (writePeriod p s).phase = s.phase := rfl
@[simp] theorem writePeriod_cnt : (writePeriod p s).cnt = s.cnt := rfl
@[simp] theorem writePeriod_arrPre : (writePeriod p s).arrPre = p := rfl
@[simp] theorem writePeriod_arrAct : (writePeriod p s).arrAct = s.arrAct := rfl
@[simp] theorem writePeriod_ccrPre : (writePeriod p s).ccrPre = s.ccrPre := rfl
@[simp] theorem writePeriod_ccrAct : (writePeriod p s).ccrAct = s.ccrAct := rfl
@[simp] theorem writePeriod_cce : (writePeriod p s).cce = s.cce := rfl
@[simp] theorem writePeriod_fault : (writePeriod p s).fault = s.fault := rfl
@[simp] theorem writePeriod_refusedWord : (writePeriod p s).refusedWord = s.refusedWord := rfl
@[simp] theorem writePeriod_stream : (writePeriod p s).stream = s.stream := rfl
@[simp] theorem writePeriod_hostGoesOn : (writePeriod p s).hostGoesOn = s.hostGoesOn := rfl
@[simp] theorem writePeriod_turns : (writePeriod p s).turns = s.turns := rfl
@[simp] theorem writePeriod_draw : (writePeriod p s).draw = s.draw := rfl

end Writeperiod

section Writecompare
variable (c : Channel) (v : Nat) (s : State)

@[simp] theorem writeCompare_cfg : (writeCompare c v s).cfg = s.cfg := rfl
@[simp] theorem writeCompare_phase : (writeCompare c v s).phase = s.phase := rfl
@[simp] theorem writeCompare_cnt : (writeCompare c v s).cnt = s.cnt := rfl
@[simp] theorem writeCompare_arrPre : (writeCompare c v s).arrPre = s.arrPre := rfl
@[simp] theorem writeCompare_arrAct : (writeCompare c v s).arrAct = s.arrAct := rfl
@[simp] theorem writeCompare_ccrPre : (writeCompare c v s).ccrPre = s.ccrPre.set c v := rfl
@[simp] theorem writeCompare_ccrAct : (writeCompare c v s).ccrAct = s.ccrAct := rfl
@[simp] theorem writeCompare_cce : (writeCompare c v s).cce = s.cce := rfl
@[simp] theorem writeCompare_fault : (writeCompare c v s).fault = s.fault := rfl
@[simp] theorem writeCompare_refusedWord : (writeCompare c v s).refusedWord = s.refusedWord := rfl
@[simp] theorem writeCompare_stream : (writeCompare c v s).stream = s.stream := rfl
@[simp] theorem writeCompare_hostGoesOn : (writeCompare c v s).hostGoesOn = s.hostGoesOn := rfl
@[simp] theorem writeCompare_turns : (writeCompare c v s).turns = s.turns := rfl
@[simp] theorem writeCompare_draw : (writeCompare c v s).draw = s.draw := rfl

end Writecompare

section Writecounter
variable (n : Nat) (s : State)

@[simp] theorem writeCounter_cfg : (writeCounter n s).cfg = s.cfg := rfl
@[simp] theorem writeCounter_phase : (writeCounter n s).phase = s.phase := rfl
@[simp] theorem writeCounter_cnt : (writeCounter n s).cnt = n := rfl
@[simp] theorem writeCounter_arrPre : (writeCounter n s).arrPre = s.arrPre := rfl
@[simp] theorem writeCounter_arrAct : (writeCounter n s).arrAct = s.arrAct := rfl
@[simp] theorem writeCounter_ccrPre : (writeCounter n s).ccrPre = s.ccrPre := rfl
@[simp] theorem writeCounter_ccrAct : (writeCounter n s).ccrAct = s.ccrAct := rfl
@[simp] theorem writeCounter_cce : (writeCounter n s).cce = s.cce := rfl
@[simp] theorem writeCounter_fault : (writeCounter n s).fault = s.fault := rfl
@[simp] theorem writeCounter_refusedWord : (writeCounter n s).refusedWord = s.refusedWord := rfl
@[simp] theorem writeCounter_stream : (writeCounter n s).stream = s.stream := rfl
@[simp] theorem writeCounter_hostGoesOn : (writeCounter n s).hostGoesOn = s.hostGoesOn := rfl
@[simp] theorem writeCounter_turns : (writeCounter n s).turns = s.turns := rfl
@[simp] theorem writeCounter_draw : (writeCounter n s).draw = s.draw := rfl

end Writecounter

section Writephase
variable (p : Phase) (s : State)

@[simp] theorem writePhase_cfg : (writePhase p s).cfg = s.cfg := rfl
@[simp] theorem writePhase_phase : (writePhase p s).phase = p := rfl
@[simp] theorem writePhase_cnt : (writePhase p s).cnt = s.cnt := rfl
@[simp] theorem writePhase_arrPre : (writePhase p s).arrPre = s.arrPre := rfl
@[simp] theorem writePhase_arrAct : (writePhase p s).arrAct = s.arrAct := rfl
@[simp] theorem writePhase_ccrPre : (writePhase p s).ccrPre = s.ccrPre := rfl
@[simp] theorem writePhase_ccrAct : (writePhase p s).ccrAct = s.ccrAct := rfl
@[simp] theorem writePhase_cce : (writePhase p s).cce = s.cce := rfl
@[simp] theorem writePhase_fault : (writePhase p s).fault = s.fault := rfl
@[simp] theorem writePhase_refusedWord : (writePhase p s).refusedWord = s.refusedWord := rfl
@[simp] theorem writePhase_stream : (writePhase p s).stream = s.stream := rfl
@[simp] theorem writePhase_hostGoesOn : (writePhase p s).hostGoesOn = s.hostGoesOn := rfl
@[simp] theorem writePhase_turns : (writePhase p s).turns = s.turns := rfl
@[simp] theorem writePhase_draw : (writePhase p s).draw = s.draw := rfl

end Writephase

section Configure
variable (s : State)

@[simp] theorem configure_cfg : (configure s).cfg = s.cfg := rfl
@[simp] theorem configure_phase : (configure s).phase = .initialized := rfl
@[simp] theorem configure_cnt : (configure s).cnt = 0 := rfl
@[simp] theorem configure_arrPre : (configure s).arrPre = defaultPeriod s.cfg := rfl
@[simp] theorem configure_arrAct : (configure s).arrAct = s.arrAct := rfl
@[simp] theorem configure_ccrPre : (configure s).ccrPre = Bank.all 0 := rfl
@[simp] theorem configure_ccrAct : (configure s).ccrAct = s.ccrAct := rfl
@[simp] theorem configure_cce : (configure s).cce = Bank.all true := rfl
@[simp] theorem configure_fault : (configure s).fault = s.fault := rfl
@[simp] theorem configure_refusedWord : (configure s).refusedWord = s.refusedWord := rfl
@[simp] theorem configure_stream : (configure s).stream = s.stream := rfl
@[simp] theorem configure_hostGoesOn : (configure s).hostGoesOn = s.hostGoesOn := rfl
@[simp] theorem configure_turns : (configure s).turns = s.turns := rfl
@[simp] theorem configure_draw : (configure s).draw = s.draw := rfl

end Configure

section Updatelatch
variable (s : State)

@[simp] theorem updateLatch_cfg : (updateLatch s).cfg = s.cfg := rfl
@[simp] theorem updateLatch_phase : (updateLatch s).phase = s.phase := rfl
@[simp] theorem updateLatch_cnt : (updateLatch s).cnt = s.cnt := rfl
@[simp] theorem updateLatch_arrPre : (updateLatch s).arrPre = s.arrPre := rfl
@[simp] theorem updateLatch_arrAct : (updateLatch s).arrAct = s.arrPre := rfl
@[simp] theorem updateLatch_ccrPre : (updateLatch s).ccrPre = s.ccrPre := rfl
@[simp] theorem updateLatch_ccrAct : (updateLatch s).ccrAct = s.ccrPre := rfl
@[simp] theorem updateLatch_cce : (updateLatch s).cce = s.cce := rfl
@[simp] theorem updateLatch_fault : (updateLatch s).fault = s.fault := rfl
@[simp] theorem updateLatch_refusedWord : (updateLatch s).refusedWord = s.refusedWord := rfl
@[simp] theorem updateLatch_stream : (updateLatch s).stream = s.stream := rfl
@[simp] theorem updateLatch_hostGoesOn : (updateLatch s).hostGoesOn = s.hostGoesOn := rfl
@[simp] theorem updateLatch_turns : (updateLatch s).turns = s.turns := rfl
@[simp] theorem updateLatch_draw : (updateLatch s).draw = s.draw := rfl

end Updatelatch

section Passturn
variable (s : State)

@[simp] theorem passTurn_cfg : (passTurn s).cfg = s.cfg := rfl
@[simp] theorem passTurn_phase : (passTurn s).phase = s.phase := rfl
@[simp] theorem passTurn_cnt : (passTurn s).cnt = s.cnt := rfl
@[simp] theorem passTurn_arrPre : (passTurn s).arrPre = s.arrPre := rfl
@[simp] theorem passTurn_arrAct : (passTurn s).arrAct = s.arrAct := rfl
@[simp] theorem passTurn_ccrPre : (passTurn s).ccrPre = s.ccrPre := rfl
@[simp] theorem passTurn_ccrAct : (passTurn s).ccrAct = s.ccrAct := rfl
@[simp] theorem passTurn_cce : (passTurn s).cce = s.cce := rfl
@[simp] theorem passTurn_fault : (passTurn s).fault = s.fault := rfl
@[simp] theorem passTurn_refusedWord : (passTurn s).refusedWord = s.refusedWord := rfl
@[simp] theorem passTurn_stream : (passTurn s).stream = s.stream := rfl
@[simp] theorem passTurn_hostGoesOn : (passTurn s).hostGoesOn = s.hostGoesOn := rfl
@[simp] theorem passTurn_turns : (passTurn s).turns = s.turns.tail := rfl
@[simp] theorem passTurn_draw : (passTurn s).draw = s.draw + 1 := rfl

end Passturn

section Takeword
variable (s : State)

@[simp] theorem takeWord_cfg : (takeWord s).cfg = s.cfg := rfl
@[simp] theorem takeWord_phase : (takeWord s).phase = s.phase := rfl
@[simp] theorem takeWord_cnt : (takeWord s).cnt = s.cnt := rfl
@[simp] theorem takeWord_arrPre : (takeWord s).arrPre = s.arrPre := rfl
@[simp] theorem takeWord_arrAct : (takeWord s).arrAct = s.arrAct := rfl
@[simp] theorem takeWord_ccrPre : (takeWord s).ccrPre = s.ccrPre := rfl
@[simp] theorem takeWord_ccrAct : (takeWord s).ccrAct = s.ccrAct := rfl
@[simp] theorem takeWord_cce : (takeWord s).cce = s.cce := rfl
@[simp] theorem takeWord_fault : (takeWord s).fault = s.fault := rfl
@[simp] theorem takeWord_refusedWord : (takeWord s).refusedWord = s.refusedWord := rfl
@[simp] theorem takeWord_stream : (takeWord s).stream = s.stream.tail := rfl
@[simp] theorem takeWord_hostGoesOn : (takeWord s).hostGoesOn = s.hostGoesOn := rfl
@[simp] theorem takeWord_turns : (takeWord s).turns = s.turns := rfl
@[simp] theorem takeWord_draw : (takeWord s).draw = s.draw := rfl

end Takeword

section Settle
variable (ws : List Word) (ts : List Agent) (s : State)

@[simp] theorem State.settle_cfg : (s.settle ws ts).cfg = s.cfg := rfl
@[simp] theorem State.settle_phase : (s.settle ws ts).phase = s.phase := rfl
@[simp] theorem State.settle_cnt : (s.settle ws ts).cnt = s.cnt := rfl
@[simp] theorem State.settle_arrPre : (s.settle ws ts).arrPre = s.arrPre := rfl
@[simp] theorem State.settle_arrAct : (s.settle ws ts).arrAct = s.arrAct := rfl
@[simp] theorem State.settle_ccrPre : (s.settle ws ts).ccrPre = s.ccrPre := rfl
@[simp] theorem State.settle_ccrAct : (s.settle ws ts).ccrAct = s.ccrAct := rfl
@[simp] theorem State.settle_cce : (s.settle ws ts).cce = s.cce := rfl
@[simp] theorem State.settle_fault : (s.settle ws ts).fault = s.fault := rfl
@[simp] theorem State.settle_refusedWord : (s.settle ws ts).refusedWord = s.refusedWord := rfl
@[simp] theorem State.settle_stream : (s.settle ws ts).stream = s.stream ++ ws := rfl
@[simp] theorem State.settle_hostGoesOn : (s.settle ws ts).hostGoesOn = s.hostGoesOn := rfl
@[simp] theorem State.settle_turns : (s.settle ws ts).turns = s.turns ++ ts := rfl
@[simp] theorem State.settle_draw : (s.settle ws ts).draw = s.draw := rfl

end Settle

end Sys2Proof.Machine
end

