-- ==== Sys2Proof/Laws/Ops.lean ====
section
/-!
SUPPORT. What each shared operation can do, said once: the banks, the guard, the update event, TICK, the scheduler.
-/

namespace Sys2Proof.Machine

/-! ### Banks -/

@[simp] theorem Bank.get_set_self {α : Type} (b : Bank α) (c : Channel) (v : α) : (b.set c v).get c = v := by
  cases c <;> rfl

theorem Bank.get_set_other {α : Type} (b : Bank α) {c d : Channel} (v : α) (h : d ≠ c) :
    (b.set c v).get d = b.get d := by
  cases c <;> cases d <;> first | rfl | exact absurd rfl h

@[simp] theorem Bank.get_all {α : Type} (v : α) (c : Channel) : (Bank.all v).get c = v := by
  cases c <;> rfl

theorem Bank.ext_get {α : Type} {a b : Bank α} (h : ∀ c, a.get c = b.get c) : a = b := by
  cases a
  cases b
  have h1 := h .ch1
  have h2 := h .ch2
  have h3 := h .ch3
  have h4 := h .ch4
  simp only [Bank.get] at h1 h2 h3 h4
  rw [h1, h2, h3, h4]

theorem Bank.forall_iff_get {α : Type} {p : α → Prop} {b : Bank α} : b.Forall p ↔ ∀ c, p (b.get c) :=
  ⟨fun h c => by cases c <;> simp only [Bank.get] <;> tauto, fun h => ⟨h .ch1, h .ch2, h .ch3, h .ch4⟩⟩

theorem Bank.forall_set {α : Type} {p : α → Prop} {b : Bank α} {c : Channel} {v : α} (hb : b.Forall p) (hv : p v) :
    (b.set c v).Forall p := by
  cases c <;> simp only [Bank.set, Bank.Forall] at * <;> tauto

theorem Bank.forall_all {α : Type} {p : α → Prop} {v : α} (hv : p v) : (Bank.all v).Forall p :=
  ⟨hv, hv, hv, hv⟩

/-! ### The guard -/

theorem ifLive_of_live {s : State} (h : s.Live) (o : Result) : ifLive s o = o := by
  unfold ifLive
  rw [h.1, h.2]

/-- The guard answers a next state only in a live state, and then what it guards answers it. -/
theorem ifLive_eq_next {s t : State} {o : Result} : ifLive s o = .next t ↔ s.Live ∧ o = .next t := by
  unfold ifLive State.Live
  split <;> simp_all

/-- Outside a live state the guard faults, with the record that stops it. -/
theorem ifLive_of_not_live {s : State} (h : ¬ s.Live) (o : Result) : ∃ r, ifLive s o = .fault r := by
  unfold ifLive
  split
  · exact ⟨_, rfl⟩
  · exact ⟨_, rfl⟩
  · exact absurd ⟨‹_›, ‹_›⟩ h

/-! ### The update event and TICK -/

theorem forceUpdate_of_keep {s : State} (h : s.cfg.forcedUpdateResetsCounter = false) :
    forceUpdate s = updateLatch s := by
  simp [forceUpdate, h]

theorem forceUpdate_of_reset {s : State} (h : s.cfg.forcedUpdateResetsCounter = true) :
    forceUpdate s = writeCounter 0 (updateLatch s) := by
  simp [forceUpdate, h]

theorem tick_of_lt {s : State} (h : s.cnt < s.arrAct) : tick s = writeCounter (s.cnt + 1) s := by
  simp [tick, h]

theorem tick_of_le {s : State} (h : s.arrAct ≤ s.cnt) : tick s = updateLatch (writeCounter 0 s) := by
  simp [tick, h]

section Kept
variable (s : State)

@[simp] theorem forceUpdate_cfg : (forceUpdate s).cfg = s.cfg := by
  unfold forceUpdate; split <;> rfl
@[simp] theorem forceUpdate_phase : (forceUpdate s).phase = s.phase := by
  unfold forceUpdate; split <;> rfl
@[simp] theorem forceUpdate_arrPre : (forceUpdate s).arrPre = s.arrPre := by
  unfold forceUpdate; split <;> rfl
@[simp] theorem forceUpdate_arrAct : (forceUpdate s).arrAct = s.arrPre := by
  unfold forceUpdate; split <;> rfl
@[simp] theorem forceUpdate_ccrPre : (forceUpdate s).ccrPre = s.ccrPre := by
  unfold forceUpdate; split <;> rfl
@[simp] theorem forceUpdate_ccrAct : (forceUpdate s).ccrAct = s.ccrPre := by
  unfold forceUpdate; split <;> rfl
@[simp] theorem forceUpdate_cce : (forceUpdate s).cce = s.cce := by
  unfold forceUpdate; split <;> rfl
@[simp] theorem forceUpdate_fault : (forceUpdate s).fault = s.fault := by
  unfold forceUpdate; split <;> rfl
@[simp] theorem forceUpdate_refusedWord : (forceUpdate s).refusedWord = s.refusedWord := by
  unfold forceUpdate; split <;> rfl
@[simp] theorem forceUpdate_stream : (forceUpdate s).stream = s.stream := by
  unfold forceUpdate; split <;> rfl
@[simp] theorem forceUpdate_hostGoesOn : (forceUpdate s).hostGoesOn = s.hostGoesOn := by
  unfold forceUpdate; split <;> rfl
@[simp] theorem forceUpdate_turns : (forceUpdate s).turns = s.turns := by
  unfold forceUpdate; split <;> rfl
@[simp] theorem forceUpdate_draw : (forceUpdate s).draw = s.draw := by
  unfold forceUpdate; split <;> rfl

@[simp] theorem tick_cfg : (tick s).cfg = s.cfg := by
  unfold tick; split <;> rfl
@[simp] theorem tick_phase : (tick s).phase = s.phase := by
  unfold tick; split <;> rfl
@[simp] theorem tick_arrPre : (tick s).arrPre = s.arrPre := by
  unfold tick; split <;> rfl
@[simp] theorem tick_ccrPre : (tick s).ccrPre = s.ccrPre := by
  unfold tick; split <;> rfl
@[simp] theorem tick_cce : (tick s).cce = s.cce := by
  unfold tick; split <;> rfl
@[simp] theorem tick_fault : (tick s).fault = s.fault := by
  unfold tick; split <;> rfl
@[simp] theorem tick_refusedWord : (tick s).refusedWord = s.refusedWord := by
  unfold tick; split <;> rfl
@[simp] theorem tick_stream : (tick s).stream = s.stream := by
  unfold tick; split <;> rfl
@[simp] theorem tick_hostGoesOn : (tick s).hostGoesOn = s.hostGoesOn := by
  unfold tick; split <;> rfl
@[simp] theorem tick_turns : (tick s).turns = s.turns := by
  unfold tick; split <;> rfl
@[simp] theorem tick_draw : (tick s).draw = s.draw := by
  unfold tick; split <;> rfl

end Kept

/-! ### The outputs -/

theorem out_of_running {s : State} (h : s.phase = .running) (c : Channel) :
    s.out c = (s.cce.get c && decide (s.cnt < s.ccrAct.get c)) := by
  simp [State.out, h]

/-- While running, the outputs depend on the counter, the active compare values and the enables alone. -/
theorem wave_congr {s t : State} (hs : s.phase = .running) (ht : t.phase = .running) (hcnt : t.cnt = s.cnt)
    (hact : t.ccrAct = s.ccrAct) (hcce : t.cce = s.cce) : t.wave = s.wave := by
  simp [State.wave, out_of_running hs, out_of_running ht, hcnt, hact, hcce]

/-! ### The scheduler -/

theorem nextWord_of_cons {s : State} {w : Word} {ws : List Word} (h : s.stream = w :: ws) : s.nextWord = some w := by
  simp [State.nextWord, h]

/-- The host has no next word exactly where its stream has ended. -/
theorem nextWord_eq_none_iff {s : State} : s.nextWord = none ↔ s.stream = [] ∧ s.hostGoesOn = false := by
  unfold State.nextWord
  split <;> simp_all

theorem hostReady_iff {s : State} : s.hostReady = true ↔ s.nextWord ≠ none ∧ s.Live := by
  simp [State.hostReady, Option.isSome_iff_ne_none]

theorem timerReady_iff {s : State} : s.timerReady = true ↔ s.TickEnabled := by
  simp [State.timerReady]

/-- The host moves only with a word to deliver, in a live state. -/
theorem host_of_mover {s : State} (h : s.mover = some .host) : (∃ w, s.nextWord = some w) ∧ s.Live := by
  rw [← Option.ne_none_iff_exists', ← hostReady_iff]
  unfold State.mover at h
  split at h <;> simp_all

theorem timer_of_mover {s : State} (h : s.mover = some .timer) : s.TickEnabled := by
  rw [← timerReady_iff]
  unfold State.mover at h
  split at h <;> simp_all

theorem mover_of_both {s : State} (hs : s.nextWord ≠ none) (ht : s.TickEnabled) : s.mover = some s.turn := by
  simp [State.mover, hostReady_iff.2 ⟨hs, ht.2⟩, timerReady_iff.2 ht]

theorem mover_of_host_only {s : State} (hs : s.nextWord ≠ none) (hl : s.Live) (hp : s.phase ≠ .running) :
    s.mover = some .host := by
  have ht : s.timerReady = false := by
    rw [← Bool.not_eq_true, timerReady_iff]
    exact fun h => hp h.1
  simp [State.mover, hostReady_iff.2 ⟨hs, hl⟩, ht]

theorem mover_of_timer_only {s : State} (hs : s.nextWord = none) (ht : s.TickEnabled) : s.mover = some .timer := by
  have hh : s.hostReady = false := by simp [State.hostReady, hs]
  simp [State.mover, hh, timerReady_iff.2 ht]

/-- A settled turn of the timer is taken, whatever the host has to deliver. -/
theorem mover_of_timer_turn {s : State} {ts : List Agent} (ht : s.TickEnabled) (hs : s.turns = .timer :: ts) :
    s.mover = some .timer := by
  by_cases hw : s.nextWord = none
  · exact mover_of_timer_only hw ht
  · rw [mover_of_both hw ht, State.turn, hs]

theorem mover_of_neither {s : State} (hs : s.nextWord = none ∨ ¬ s.Live) (ht : ¬ s.TickEnabled) : s.mover = none := by
  have hh : s.hostReady = false := by
    rw [← Bool.not_eq_true, hostReady_iff]
    tauto
  have ht' : s.timerReady = false := by
    rwa [← Bool.not_eq_true, timerReady_iff]
  simp [State.mover, hh, ht']

end Sys2Proof.Machine
end

