-- ==== Sys2Proof/Laws/Exec.lean ====
section
/-!
SUPPORT. The commands and the step, said once: what each command answers in a live state, and the cases of a step that
answers a next state.
-/

namespace Sys2Proof.Machine

/-- Every command runs only in a live state (60_exceptions.md R204). -/
theorem live_of_exec {i : Instr} {s t : State} (h : exec i s = .next t) : s.Live := by
  cases i <;> exact (ifLive_eq_next.1 h).1

/-- In a live state every command answers a next state: a rejection, a fault record or its commit. -/
theorem exec_not_stopped {s : State} (h : s.Live) (i : Instr) : ∃ t, exec i s = .next t := by
  cases i <;> exact ⟨_, ifLive_of_live h _⟩

/-- The cases of INIT. -/
theorem execInit_cases {s t : State} (h : execInit s = .next t) :
    s.Live ∧ ((s.phase = .running ∧ t = raiseFault .initWhileRunning (encode .init) s) ∨
      (s.phase ≠ .running ∧ t = configure s)) := by
  obtain ⟨hl, h⟩ := ifLive_eq_next.1 h
  refine ⟨hl, ?_⟩
  have h := (Host.Outcome.next.inj h).symm
  cases hp : s.phase <;> simp_all

/-- The cases of SETFREQ. -/
theorem execSetfreq_cases {f : BitVec 32} {s t : State} (h : execSetfreq f s = .next t) :
    s.Live ∧ ((s.phase = .uninitialized ∧ t = raiseFault .useBeforeInit (encode (.setfreq f)) s) ∨
      (s.phase ≠ .uninitialized ∧ ¬ FreqInRange s.cfg f.toNat ∧ t = s) ∨
      (s.phase ≠ .uninitialized ∧ FreqInRange s.cfg f.toNat ∧ ¬ FreqOK s.cfg f.toNat ∧ t = oversizePeriod f s) ∨
      (s.phase ≠ .uninitialized ∧ FreqOK s.cfg f.toNat ∧ t = writePeriod (period s.cfg f.toNat) s)) := by
  obtain ⟨hl, h⟩ := ifLive_eq_next.1 h
  refine ⟨hl, ?_⟩
  have h := (Host.Outcome.next.inj h).symm
  split at h
  · exact .inl ⟨‹_›, h⟩
  · split at h
    · exact .inr (.inl ⟨‹_›, ‹_›, h⟩)
    · split at h
      · exact .inr (.inr (.inl ⟨‹_›, not_not.1 ‹_›, ‹_›, h⟩))
      · exact .inr (.inr (.inr ⟨‹_›, not_not.1 ‹_›, h⟩))

/-- The two outcomes of a period that does not fit. -/
theorem oversizePeriod_cases (f : BitVec 32) (s : State) :
    (s.cfg.oversizePeriodPolicy = .reject ∧ oversizePeriod f s = s) ∨
      (s.cfg.oversizePeriodPolicy = .fault ∧
        oversizePeriod f s = raiseFault .periodOverflow (encode (.setfreq f)) s) := by
  unfold oversizePeriod
  split
  · exact .inr ⟨‹_›, rfl⟩
  · exact .inl ⟨‹_›, rfl⟩

/-- The cases of SETDC. -/
theorem execSetdc_cases {b : BitVec 8} {d : BitVec 32} {s t : State} (h : execSetdc b d s = .next t) :
    s.Live ∧ ((s.phase = .uninitialized ∧ t = raiseFault .useBeforeInit (encode (.setdc b d)) s) ∨
      (s.phase ≠ .uninitialized ∧ (chanOf b = none ∨ ¬ DutyOK d.toNat) ∧ t = s) ∨
      (s.phase ≠ .uninitialized ∧ DutyOK d.toNat ∧
        ∃ c, chanOf b = some c ∧ t = writeCompare c (compareValue s.arrPre d.toNat) s)) := by
  obtain ⟨hl, h⟩ := ifLive_eq_next.1 h
  refine ⟨hl, ?_⟩
  have h := (Host.Outcome.next.inj h).symm
  split at h
  · exact .inl ⟨‹_›, h⟩
  · split at h
    · exact .inr (.inl ⟨‹_›, .inl ‹_›, h⟩)
    · split at h
      · exact .inr (.inl ⟨‹_›, .inr ‹_›, h⟩)
      · exact .inr (.inr ⟨‹_›, not_not.1 ‹_›, _, ‹_›, h⟩)

/-- The cases of START. -/
theorem execStart_cases {s t : State} (h : execStart s = .next t) :
    s.Live ∧ ((s.phase = .uninitialized ∧ t = raiseFault .useBeforeInit (encode .start) s) ∨
      (s.phase ≠ .uninitialized ∧ t = writePhase .running (forceUpdate s))) := by
  obtain ⟨hl, h⟩ := ifLive_eq_next.1 h
  refine ⟨hl, ?_⟩
  have h := (Host.Outcome.next.inj h).symm
  split at h
  · exact .inl ⟨‹_›, h⟩
  · exact .inr ⟨‹_›, h⟩

/-- Everything a command can do, said once: nothing (a rejection), a fault record, or the commit of its own rule. -/
theorem exec_cases {i : Instr} {s t : State} (h : exec i s = .next t) :
    s.Live ∧ (t = s ∨ (∃ k, t = raiseFault k (encode i) s) ∨
      (i = .init ∧ s.phase ≠ .running ∧ t = configure s) ∨
      (∃ f, i = .setfreq f ∧ s.phase ≠ .uninitialized ∧ FreqOK s.cfg f.toNat ∧
        t = writePeriod (period s.cfg f.toNat) s) ∨
      (∃ b d c, i = .setdc b d ∧ s.phase ≠ .uninitialized ∧ DutyOK d.toNat ∧ chanOf b = some c ∧
        t = writeCompare c (compareValue s.arrPre d.toNat) s) ∨
      (i = .start ∧ s.phase ≠ .uninitialized ∧ t = writePhase .running (forceUpdate s))) := by
  cases i with
  | init =>
    obtain ⟨hl, ⟨-, ht⟩ | ⟨hp, ht⟩⟩ := execInit_cases h
    · exact ⟨hl, .inr (.inl ⟨_, ht⟩)⟩
    · exact ⟨hl, .inr (.inr (.inl ⟨rfl, hp, ht⟩))⟩
  | setfreq f =>
    obtain ⟨hl, ⟨-, ht⟩ | ⟨-, -, ht⟩ | ⟨-, -, -, ht⟩ | ⟨hp, hf, ht⟩⟩ := execSetfreq_cases h
    · exact ⟨hl, .inr (.inl ⟨_, ht⟩)⟩
    · exact ⟨hl, .inl ht⟩
    · obtain ⟨-, e⟩ | ⟨-, e⟩ := oversizePeriod_cases f s
      · exact ⟨hl, .inl (ht.trans e)⟩
      · exact ⟨hl, .inr (.inl ⟨_, ht.trans e⟩)⟩
    · exact ⟨hl, .inr (.inr (.inr (.inl ⟨f, rfl, hp, hf, ht⟩)))⟩
  | setdc b d =>
    obtain ⟨hl, ⟨-, ht⟩ | ⟨-, -, ht⟩ | ⟨hp, hd, c, hc, ht⟩⟩ := execSetdc_cases h
    · exact ⟨hl, .inr (.inl ⟨_, ht⟩)⟩
    · exact ⟨hl, .inl ht⟩
    · exact ⟨hl, .inr (.inr (.inr (.inr (.inl ⟨b, d, c, rfl, hp, hd, hc, ht⟩))))⟩
  | start =>
    obtain ⟨hl, ⟨-, ht⟩ | ⟨hp, ht⟩⟩ := execStart_cases h
    · exact ⟨hl, .inr (.inl ⟨_, ht⟩)⟩
    · exact ⟨hl, .inr (.inr (.inr (.inr (.inr ⟨rfl, hp, ht⟩))))⟩

/-- The cases of one delivered word. -/
theorem deliver_cases {w : Word} {s t : State} (h : deliver w s = .next t) :
    s.Live ∧ ((∃ r, decode w = .error r ∧ t = refuseWord r w s) ∨
      ∃ i, decode w = .ok i ∧ exec i s = .next t) := by
  obtain ⟨hl, h⟩ := ifLive_eq_next.1 h
  refine ⟨hl, ?_⟩
  split at h
  · exact .inr ⟨_, ‹_›, h⟩
  · exact .inl ⟨_, ‹_›, (Host.Outcome.next.inj h).symm⟩

/-- The cases of a step that answers a next state: the host's word, a TICK, or waiting. -/
theorem step_cases {s t : State} (h : step s = .next t) :
    s.Live ∧
      ((∃ w, s.mover = some .host ∧ s.nextWord = some w ∧ deliver w (takeWord (passTurn s)) = .next t) ∨
        (s.mover = some .timer ∧ t = tick (passTurn s)) ∨
        (s.mover = none ∧ t = passTurn s)) := by
  obtain ⟨hl, h⟩ := ifLive_eq_next.1 h
  refine ⟨hl, ?_⟩
  split at h
  · next hm =>
    obtain ⟨w, hs⟩ := (host_of_mover hm).1
    exact .inl ⟨w, hm, hs, by simpa [hostStep, hs] using h⟩
  · next hm => exact .inr (.inl ⟨hm, (Host.Outcome.next.inj h).symm⟩)
  · next hm => exact .inr (.inr ⟨hm, (Host.Outcome.next.inj h).symm⟩)

/-- Every step from a live state answers a next state. -/
theorem step_not_stopped {s : State} (h : s.Live) : ∃ t, step s = .next t := by
  unfold step
  rw [ifLive_of_live h]
  split
  · unfold hostStep
    split
    · unfold deliver
      rw [ifLive_of_live (by exact h)]
      split
      · exact exec_not_stopped (by exact h) _
      · exact ⟨_, rfl⟩
    · exact ⟨_, rfl⟩
  · exact ⟨_, rfl⟩
  · exact ⟨_, rfl⟩

/-! ### One step, by who takes it -/

theorem step_of_host {s : State} {w : Word} (hm : s.mover = some .host) (hw : s.nextWord = some w) :
    step s = deliver w (takeWord (passTurn s)) := by
  unfold step
  rw [ifLive_of_live (host_of_mover hm).2, hm]
  simp [hostStep, hw]

theorem step_of_timer {s : State} (hm : s.mover = some .timer) : step s = .next (tick (passTurn s)) := by
  unfold step
  rw [ifLive_of_live (timer_of_mover hm).2, hm]
  rfl

theorem step_of_none {s : State} (hl : s.Live) (hm : s.mover = none) : step s = .next (passTurn s) := by
  unfold step
  rw [ifLive_of_live hl, hm]
  rfl

theorem deliver_of_ok {s : State} {w : Word} {i : Instr} (hl : s.Live) (h : decode w = .ok i) :
    deliver w s = exec i s := by
  unfold deliver
  rw [ifLive_of_live hl, h]

theorem deliver_of_error {s : State} {w : Word} {r : RefusalReason} (hl : s.Live) (h : decode w = .error r) :
    deliver w s = .next (refuseWord r w s) := by
  unfold deliver
  rw [ifLive_of_live hl, h]

/-- No command writes the configuration, REFUSED or the model's own fields. -/
theorem exec_keeps {i : Instr} {s t : State} (h : exec i s = .next t) :
    t.cfg = s.cfg ∧ t.refusedWord = s.refusedWord ∧ t.stream = s.stream ∧ t.hostGoesOn = s.hostGoesOn ∧
      t.turns = s.turns ∧ t.draw = s.draw := by
  obtain ⟨-, rfl | ⟨_, rfl⟩ | ⟨-, -, rfl⟩ | ⟨_, -, -, -, rfl⟩ | ⟨_, _, _, -, -, -, -, rfl⟩ | ⟨-, -, rfl⟩⟩ :=
    exec_cases h <;> simp

/-! ### Observing a run, one step at a time -/

theorem stateAfter_succ {s t : State} (h : step s = .next t) (k : Nat) : stateAfter (k + 1) s = stateAfter k t := by
  simp only [stateAfter, h]

theorem delivered_succ {s t : State} (h : step s = .next t) (k : Nat) :
    delivered (k + 1) s = s.deliversNext.toList ++ delivered k t := by
  simp only [delivered, h]

theorem waveform_succ {s t : State} (h : step s = .next t) (k : Nat) :
    waveform (k + 1) s = if s.mover = some .timer then t.wave :: waveform k t else waveform k t := by
  simp only [waveform, h]

end Sys2Proof.Machine
end

