-- ==== Sys2Proof/Laws/PerInstr.lean ====
section
/-!
SUPPORT. Statements about every command as syntax, one lemma per constructor.
-/

namespace Sys2Proof.Laws

/-- The word of a command has the opcode of its row of the opcode table, and every bit the row fixes is as the row has
it (30_encoding.md R73 to R76). -/
def TableRowMatch.Statement (i : Instr) : Prop :=
  rowOf i ∈ opcodeTable ∧ (rowOf i).Matches (encode i)

theorem TableRowMatch.init : TableRowMatch.Statement .init := by
  unfold TableRowMatch.Statement
  decide

theorem TableRowMatch.start : TableRowMatch.Statement .start := by
  unfold TableRowMatch.Statement
  decide

theorem TableRowMatch.setfreq (freq : BitVec 32) : TableRowMatch.Statement (.setfreq freq) := by
  refine ⟨by simp [opcodeTable, rowOf], (setfreqRow_matches _).2 ?_⟩
  have := freq.isLt
  simp only [encode, toNat_ofFields, BitVec.toNat_ofNat]
  omega

theorem TableRowMatch.setdc (chan : BitVec 8) (duty : BitVec 32) : TableRowMatch.Statement (.setdc chan duty) := by
  refine ⟨by simp [opcodeTable, rowOf], (setdcRow_matches _).2 ?_⟩
  have := chan.isLt
  have := duty.isLt
  simp only [encode, toNat_ofFields, BitVec.toNat_ofNat]
  omega

end Sys2Proof.Laws
end

