-- ==== Sys2Proof/Tests/Slice0.lean ====
section
/-!
SUPPORT. Small tests with expected values from spec/95_test_vectors.md, the checks of WellFormed refusing an ill-formed
term each, and for every statement with hypotheses a witness that meets them.
-/

namespace Sys2Proof.Tests

open Sys2Proof Sys2Proof.Machine

/-! ### The checks of WellFormed, each with a term it refuses -/

theorem test_defaults_wellFormed : Config.defaults.WellFormed := by decide

theorem test_rates_refused :
    ¬ ({ Config.defaults with maxFreqHz := 500001 } : Config).RatesOK ∧
      ¬ ({ Config.defaults with maxFreqHz := 0 } : Config).RatesOK := by decide

theorem test_default_frequency_refused :
    ¬ ({ Config.defaults with defaultFreqHz := 15 } : Config).DefaultOK ∧
      ¬ ({ Config.defaults with defaultFreqHz := 100001 } : Config).DefaultOK ∧
      ¬ ({ Config.defaults with defaultFreqHz := 0 } : Config).DefaultOK := by decide

theorem test_tick_rate_refused : ¬ ({ Config.defaults with tickRateHz := 4294967296 } : Config).TickRateFits := by
  decide

theorem test_literals_refused : ¬ LiteralFits 4294967296 ∧ LiteralFits 4294967295 ∧
    ¬ ChanLiteralFits 256 ∧ ChanLiteralFits 255 := by decide

theorem test_draws_refused : ¬ Draws.Fits Config.defaults { Draws.zero with cnt := 65536 } ∧
    Draws.Fits Config.defaults { Draws.zero with cnt := 65535 } := by decide

/-! ### Decoding (vectors V-DEC-1 to V-DEC-18) -/

/-- INIT bit by bit: OP 0001, every other bit 0 (R73). -/
theorem test_decode_init_bits :
    decode (0b0001#4 ++ 0b00000000000000000000#20 ++ 0b00000000#8 ++ 0b00000000000000000000000000000000#32)
      = .ok .init := rfl

/-- SETFREQ 1000 bit by bit: OP 0010, VAL 0x3E8 (R74). -/
theorem test_decode_setfreq_bits :
    decode (0b0010#4 ++ 0b00000000000000000000#20 ++ 0b00000000#8 ++ 0b00000000000000000000001111101000#32)
      = .ok (.setfreq 1000#32) := rfl

/-- SETDC CH4, 250 bit by bit: OP 0011, CHAN 3, VAL 0xFA (R75). -/
theorem test_decode_setdc_bits :
    decode (0b0011#4 ++ 0b00000000000000000000#20 ++ 0b00000011#8 ++ 0b00000000000000000000000011111010#32)
      = .ok (.setdc 3#8 250#32) := rfl

/-- START bit by bit: OP 0100, every other bit 0 (R76). -/
theorem test_decode_start_bits :
    decode (0b0100#4 ++ 0b00000000000000000000#20 ++ 0b00000000#8 ++ 0b00000000000000000000000000000000#32)
      = .ok .start := rfl

theorem test_decode_operands :
    decode 0x20000000FFFFFFFF#64 = .ok (.setfreq 4294967295#32) ∧
      decode 0x30000003000003E8#64 = .ok (.setdc 3#8 1000#32) ∧
      decode 0x300000FFFFFFFFFF#64 = .ok (.setdc 255#8 4294967295#32) := ⟨rfl, rfl, rfl⟩

theorem test_decode_refusals :
    decode 0x5000000000000000#64 = .error .reservedOpcode ∧
      decode 0xF0000000000003E8#64 = .error .reservedOpcode ∧
      decode 0x1800000000000000#64 = .error .reservedBitsNonZero ∧
      decode 0x4000000000000001#64 = .error .reservedBitsNonZero := ⟨rfl, rfl, rfl, rfl⟩

theorem test_encode_words :
    encode .init = 0x1000000000000000#64 ∧ encode (.setfreq 1000#32) = 0x20000000000003E8#64 ∧
      encode (.setdc 4#8 500#32) = 0x30000004000001F4#64 ∧ encode .start = 0x4000000000000000#64 := by decide

theorem test_table_words :
    decodeTableWord 64 0x20000000000186A0 = some (.setfreq 100000#32) ∧
      decodeTableWord 64 0x5000000000000000 = none := by decide

/-- 20_memory.md R51: byte 0 is the least significant. -/
theorem test_bytes_little_endian :
    bytesOfWord 0x30000004000001F4#64 = [0xF4#8, 0x01#8, 0x00#8, 0x00#8, 0x04#8, 0x00#8, 0x00#8, 0x30#8] := by decide

/-! ### Assembler (R82, R84 and the disassembly column of V-DEC) -/

theorem test_disassemble_setdc :
    disassemble 0x30000004000001F4#64 = "SETDC #4, 500".toList ∧
      disassemble 0x30000003000003E8#64 = "SETDC CH4, 1000".toList := by decide

theorem test_disassemble_refused : disassemble 0xF0000000000003E8#64 = ".word64 0xF0000000000003E8".toList := by
  decide

theorem test_assemble_line_forms :
    readLine "  setdc  ch1 , 0x1F4 ; half".toList = .command (.setdc (.named .ch1) 500) ∧
      readLine "; nothing".toList = .empty ∧ readLine "SETDC CH5, 1".toList = .error := by decide

theorem test_assemble_program :
    assemble "INIT\nSETFREQ 1000 ; 1 kHz\nSTART".toList =
      some [0x1000000000000000#64, 0x20000000000003E8#64, 0x4000000000000000#64] := by decide

/-! ### Sample states -/

/-- A state of the default configuration in a phase, with period `p` preloaded and active, outputs enabled, and no word
left to deliver. -/
def sample (ph : Phase) (p : Nat) : State :=
  { State.reset with phase := ph, arrPre := p, arrAct := p, cce := Bank.all true, hostGoesOn := false }

/-- V-START-5 and V-START-6: while running, period 499 pending and 999 active, the counter at 600. -/
def pending : State :=
  { sample .running 999 with cnt := 600, arrPre := 499, ccrPre := ⟨249, 0, 0, 0⟩, ccrAct := ⟨499, 0, 0, 0⟩ }

/-- The short-period state of V-OUT-1: ARR_ACT 3, CCR_ACT[1] 2. -/
def short : State :=
  { sample .running 3 with ccrPre := ⟨2, 0, 0, 0⟩, ccrAct := ⟨2, 0, 0, 0⟩ }

/-- `short` with a host that goes on, nothing of its stream settled. -/
def endless : State :=
  { short with hostGoesOn := true }

theorem endless_nextWord : endless.nextWord ≠ none :=
  nofun

/-- A state that has faulted. -/
def faulted : State :=
  raiseFault .useBeforeInit 0x30000000000001F4#64 State.reset

/-- A state that has refused a word. -/
def refusing : State :=
  refuseWord .reservedOpcode 0#64 State.reset

/-- `s` with words for the host to deliver, the host's turn first. -/
def withWords (ws : List Word) (s : State) : State :=
  { s with stream := ws, turns := [.host] }

/-- The next state of an outcome. -/
def nextOf : Result → Option State
  | .next s => some s
  | _ => none

/-! ### Commands -/

/-- V-INIT-1. -/
theorem test_init_from_reset :
    (nextOf (exec .init State.reset)).map (fun t => (t.phase, t.cnt, t.arrPre, t.ccrPre, t.cce)) =
      some (.initialized, 0, 9999, ⟨0, 0, 0, 0⟩, ⟨true, true, true, true⟩) := by decide

/-- V-INIT-4. -/
theorem test_init_while_running :
    (nextOf (exec .init (sample .running 999))).map (·.fault) =
      some (some ⟨.initWhileRunning, 0x1000000000000000#64⟩) := by decide

/-- V-FREQ-14 and V-FREQ-7: 999 Hz gives period 1000, 15 Hz is rejected. -/
theorem test_setfreq_accepts_and_rejects :
    (nextOf (exec (.setfreq 999#32) (sample .initialized 9999))).map (·.arrPre) = some 1000 ∧
      nextOf (exec (.setfreq 15#32) (sample .initialized 9999)) = some (sample .initialized 9999) := by decide

/-- V-FREQ-16. -/
theorem test_setfreq_period_overflow :
    (nextOf (exec (.setfreq 15#32)
        { sample .initialized 9999 with cfg := { Config.defaults with oversizePeriodPolicy := .fault } })).map (·.fault) =
      some (some ⟨.periodOverflow, 0x200000000000000F#64⟩) := by decide

/-- V-DC-22: scaled against the preload period 499, not the active 999. -/
theorem test_setdc_scales_to_preload :
    (nextOf (exec (.setdc 0#8 500#32) { pending with ccrPre := ⟨0, 1, 2, 3⟩ })).map (·.ccrPre) =
      some ⟨249, 1, 2, 3⟩ := by decide

/-- V-DC-24: the phase check comes before the value checks. -/
theorem test_setdc_phase_before_values :
    (nextOf (exec (.setdc 9#8 2000#32) State.reset)).map (·.fault) =
      some (some ⟨.useBeforeInit, 0x30000009000007D0#64⟩) := by decide

/-- V-START-6: START leaves the counter above the new period; the TICK wraps and latches. -/
theorem test_start_then_tick :
    (nextOf (exec .start pending)).map (fun t => (t.cnt, t.arrAct, (tick t).cnt)) = some (600, 499, 0) := by decide

/-- V-START-4. -/
theorem test_start_resets_counter :
    (nextOf (exec .start
        { sample .running 999 with cnt := 300, cfg := { Config.defaults with forcedUpdateResetsCounter := true } })).map
      (·.cnt) = some 0 := by decide

/-! ### TICK, outputs and steps -/

/-- V-TICK-2 and V-TICK-3. -/
theorem test_tick_counts_and_latches :
    (tick { pending with cnt := 998 }).cnt = 999 ∧
      tick { pending with cnt := 999 } =
        { pending with cnt := 0, arrAct := 499, ccrAct := ⟨249, 0, 0, 0⟩ } := by decide

/-- V-OUT-1: two of four ticks high. -/
theorem test_output_half :
    [0, 1, 2, 3].map (fun n => ({ short with cnt := n } : State).out .ch1) = [true, true, false, false] := by decide

/-- V-EXC-1: a reserved opcode at reset is a refusal, not a fault. -/
theorem test_step_refuses :
    (nextOf (step (State.reset.withFetchWord 64 0))).map (fun t => (t.refusedWord, t.fault)) =
      some (some ⟨.reservedOpcode, 0#64⟩, none) := by decide

/-- V-EXC-4, V-EXC-5 and V-TICK-6: nothing is enabled. -/
theorem test_step_quiescent :
    nextOf (step (withWords [0x1000000000000000#64] faulted)) = none ∧ nextOf (step refusing) = none ∧
      nextOf (step { short with fault := some ⟨.useBeforeInit, 0#64⟩ }) = none := by decide

/-- A word placed as the next one runs as the first instruction after reset. -/
theorem test_step_runs_first_word :
    (nextOf (step (State.reset.withFetchWord 64 0x1000000000000000))).map (·.phase) = some .initialized := by decide

/-- The model's reset state is a machine that `build?` gives (log entries 2 and 3). -/
theorem test_reset_is_built : State.build? Config.defaults Draws.zero [] true [] = some State.reset := by decide

/-! ### Witnesses: states and operands that meet the hypotheses of each statement -/

theorem witness_EncodeDecodeRoundTrip : decode 0x300000FFFFFFFFFF#64 = .ok (.setdc 255#8 4294967295#32) := rfl

theorem witness_DecoderAcceptsExactlyTheTable :
    initRow.Matches 0x1000000000000000#64 ∧ setfreqRow.Matches 0x20000000FFFFFFFF#64 ∧
      setdcRow.Matches 0x300000FFFFFFFFFF#64 ∧ startRow.Matches 0x4000000000000000#64 := by decide

theorem witness_DecoderVerdicts :
    State.reset.Live ∧ decode 0x0FFFFFFFFFFFFFFF#64 = .error .reservedOpcode ∧
      decode 0x5000000000000000#64 = .error .reservedOpcode ∧
      decode 0x4000010000000000#64 = .error .reservedBitsNonZero ∧
      decode 0x1000000000000001#64 = .error .reservedBitsNonZero := ⟨by decide, rfl, rfl, rfl, rfl⟩

theorem witness_WordBytesLittleEndian : (7 < 8) ∧ (0 < 8) ∧
    wordOfBytes [0xF4#8, 0x01#8, 0x00#8, 0x00#8, 0x04#8, 0x00#8, 0x00#8, 0x30#8] = some 0x30000004000001F4#64 := by
  decide

theorem witness_AssemblyOfDisassembly :
    decode 0x20000000FFFFFFFF#64 = .ok (.setfreq 4294967295#32) ∧ decode 0x1000000000000000#64 = .ok .init :=
  ⟨rfl, rfl⟩

theorem witness_AssemblerNeverTruncates :
    2 ^ 32 ≤ 4294967296 ∧ 256 ≤ 256 ∧ 4294967295 < 2 ^ 32 ∧ 255 < 256 := by decide

theorem witness_OnlyWellFormedConfigsBuild :
    ¬ ({ Config.defaults with defaultFreqHz := 15 } : Config).WellFormed ∧ Config.defaults.WellFormed ∧
      Draws.Fits Config.defaults Draws.zero := by decide

theorem witness_PeriodOfFrequency :
    (1 ≤ 1 ∧ 1 ≤ Config.defaults.tickRateHz) ∧ (1 ≤ 1000000 ∧ 1000000 ≤ Config.defaults.tickRateHz) ∧
      Config.defaults.WellFormed ∧ FreqOK Config.defaults 16 ∧ FreqOK Config.defaults 100000 ∧
      FreqInRange Config.defaults 1 := by decide

theorem witness_CompareIsExact : 4294967295 ≤ 2 ^ 32 - 1 ∧ 1000 ≤ 1000 ∧ 0 ≤ 1000 := by decide

theorem witness_CompareBoundAndMonotone : DutyOK 1000 ∧ DutyOK 0 ∧ 999 ≤ 1000 := by decide

theorem witness_ComplementaryPairSum :
    500 ≤ 1000 ∧ 999 * 500 % 1000 ≠ 0 ∧ 300 ≤ 1000 ∧ 1000 * 300 % 1000 = 0 := by decide

theorem witness_AchievedFrequency :
    Config.defaults.WellFormed ∧ FreqOK Config.defaults 3000 ∧ FreqOK Config.defaults 1000 := by decide

theorem witness_PowerOnResetLeaves :
    (∃ t, step (sample .running 3) = .next t) ∧ (sample .running 3).phase ≠ .uninitialized ∧ ¬ faulted.Live :=
  ⟨⟨_, rfl⟩, by decide, by decide⟩

theorem witness_ElementIndicesAreNames : elemOf 0x0B = some (.ccrAct .ch4) ∧ elemOf 0x0F = some .refused := by decide

theorem witness_ConfigNeverChanges : ∃ t, step (sample .running 3) = .next t := ⟨_, rfl⟩

theorem witness_InitOutcome :
    (State.reset.Live ∧ State.reset.phase ≠ .running) ∧
      ((sample .initialized 999).Live ∧ (sample .initialized 999).phase ≠ .running) ∧
      ((sample .running 999).Live ∧ (sample .running 999).phase = .running) ∧
      ∃ t, exec .init State.reset = .next t :=
  ⟨by decide, by decide, by decide, _, rfl⟩

theorem witness_InitIsIdempotent : State.reset.phase ≠ .running ∧ ∃ t, exec .init State.reset = .next t :=
  ⟨by decide, _, rfl⟩

theorem witness_InitFrame :
    (∃ t, exec .init State.reset = .next t) ∧ ∃ t, exec .init (sample .running 999) = .next t :=
  ⟨⟨_, rfl⟩, _, rfl⟩

/-- The clauses of SETFREQ, with frequencies where they meet: 0, 15, 16, 100,000 and 100,001. -/
theorem witness_SetfreqOutcome :
    (State.reset.Live ∧ State.reset.phase = .uninitialized) ∧
      ((sample .initialized 999).Live ∧ (sample .initialized 999).phase ≠ .uninitialized) ∧
      ¬ FreqInRange Config.defaults (0#32).toNat ∧ ¬ FreqInRange Config.defaults (100001#32).toNat ∧
      (FreqInRange Config.defaults (15#32).toNat ∧ ¬ FreqOK Config.defaults (15#32).toNat) ∧
      FreqOK Config.defaults (16#32).toNat ∧ FreqOK Config.defaults (100000#32).toNat := by decide

theorem witness_SetfreqFrame : ∃ t, exec (.setfreq 1000#32) (sample .initialized 9999) = .next t := ⟨_, rfl⟩

/-- The clauses of SETDC, with operands where they meet: channels 3 and 4, duties 1000 and 1001. -/
theorem witness_SetdcOutcome :
    (State.reset.Live ∧ State.reset.phase = .uninitialized) ∧
      ((sample .running 999).Live ∧ (sample .running 999).phase ≠ .uninitialized) ∧
      3 < (4#8).toNat ∧ 1000 < (1001#32).toNat ∧ (3#8).toNat = chanOffset .ch4 ∧ (0#8).toNat = chanOffset .ch1 ∧
      (1000#32).toNat ≤ 1000 := by decide

theorem witness_SetdcFrame :
    (∃ t, exec (.setdc 0#8 500#32) (sample .running 999) = .next t) ∧ (0#8).toNat ≠ chanOffset .ch2 :=
  ⟨⟨_, rfl⟩, by decide⟩

theorem witness_StartOutcome :
    (State.reset.Live ∧ State.reset.phase = .uninitialized) ∧
      ((sample .initialized 999).Live ∧ (sample .initialized 999).phase ≠ .uninitialized) ∧
      Config.defaults.forcedUpdateResetsCounter = false ∧
      ({ Config.defaults with forcedUpdateResetsCounter := true } : Config).forcedUpdateResetsCounter = true := by
  decide

theorem witness_StartIsIdempotentWhenNothingPending :
    short.Live ∧ short.phase = .running ∧ short.arrPre = short.arrAct ∧ short.ccrPre = short.ccrAct ∧
      short.cfg.forcedUpdateResetsCounter = false := by decide

theorem witness_StartFrame :
    (∃ t, exec .start (sample .initialized 999) = .next t) ∧ ∃ t, exec .start State.reset = .next t :=
  ⟨⟨_, rfl⟩, _, rfl⟩

theorem witness_RecommendedBootSequence :
    State.reset.Live ∧ State.reset.phase ≠ .running ∧ FreqOK State.reset.cfg (1000#32).toNat ∧
      DutyOK (0#32).toNat ∧ DutyOK (1000#32).toNat := by decide

theorem witness_PhaseStateMachine :
    (∃ t, exec .start (sample .initialized 999) = .next t) ∧ (∃ t, exec .start State.reset = .next t) ∧
      ∃ t, exec .init (sample .running 999) = .next t := ⟨⟨_, rfl⟩, ⟨_, rfl⟩, _, rfl⟩

theorem witness_NoCommandResets :
    (∃ t, step (sample .running 3) = .next t) ∧ ((sample .running 999).Live ∧ (sample .running 999).phase = .running) ∧
      ∃ t, exec .init State.reset = .next t := ⟨⟨_, rfl⟩, by decide, _, rfl⟩

/-- The state of V-FREQ-16: the policy Fault. -/
def faultPolicy : State :=
  { sample .initialized 9999 with cfg := { Config.defaults with oversizePeriodPolicy := .fault } }

theorem witness_FaultKindsAndCodes :
    (State.reset.Live ∧ State.reset.phase = .uninitialized ∧ Instr.start ≠ .init) ∧
      ((sample .running 999).Live ∧ (sample .running 999).phase = .running) ∧
      (faultPolicy.Live ∧ faultPolicy.phase ≠ .uninitialized ∧ faultPolicy.cfg.oversizePeriodPolicy = .fault ∧
        FreqInRange faultPolicy.cfg (15#32).toNat ∧ ¬ FreqOK faultPolicy.cfg (15#32).toNat) ∧
      ∃ t, exec .start State.reset = .next t ∧ t.fault ≠ none :=
  ⟨by decide, by decide, by decide, _, rfl, by decide⟩

/-- Each rejection at its boundary, and a step that delivers one. -/
theorem witness_RejectedCommandsWriteNothing :
    ((sample .initialized 999).Live ∧ (sample .initialized 999).phase ≠ .uninitialized) ∧
      Rejected Config.defaults (.setfreq 0#32) ∧ Rejected Config.defaults (.setfreq 100001#32) ∧
      Rejected Config.defaults (.setfreq 15#32) ∧ Rejected Config.defaults (.setdc 4#8 0#32) ∧
      Rejected Config.defaults (.setdc 0#8 1001#32) ∧
      (withWords [encode (.setfreq 0#32)] (sample .initialized 999)).mover = some .host := by
  refine ⟨by decide, ?_, ?_, ?_, ?_, ?_, by decide⟩ <;> unfold Rejected <;> decide

theorem witness_OneOutcomePerWord :
    State.reset.Live ∧ decode 0#64 = .error .reservedOpcode ∧ decode 0x4000000000000000#64 = .ok .start ∧
      phaseFault State.reset.phase .start = some .useBeforeInit ∧
      phaseFault (sample .initialized 999).phase (.setfreq 0#32) = none ∧
      Rejected Config.defaults (.setfreq 0#32) ∧ Overflows faultPolicy.cfg (.setfreq 15#32) ∧
      ¬ Rejected Config.defaults .start ∧ ¬ Overflows Config.defaults .start := by
  refine ⟨by decide, rfl, rfl, rfl, by decide, ?_, ?_, ?_, ?_⟩ <;> first | unfold Rejected | unfold Overflows
  all_goals decide

theorem witness_FaultsAndRefusalsAreQuiescent :
    (∃ t, exec .start State.reset = .next t ∧ t.fault ≠ none) ∧
      (∃ t, deliver 0#64 State.reset = .next t ∧ t.refusedWord ≠ none) ∧ ¬ faulted.Live ∧ ¬ refusing.Live :=
  ⟨⟨_, rfl, by decide⟩, ⟨_, rfl, by decide⟩, by decide, by decide⟩

theorem witness_StepRunsTheDecodedCommand :
    (withWords [0x4000000000000000#64] short).mover = some .host ∧
      (withWords [0x4000000000000000#64] short).nextWord = some 0x4000000000000000#64 ∧
      decode 0x4000000000000000#64 = .ok .start := ⟨by decide, rfl, rfl⟩

theorem witness_StepRefusesTicksOrWaits :
    ((withWords [0#64] short).mover = some .host ∧ (withWords [0#64] short).nextWord = some 0#64 ∧
      decode 0#64 = .error .reservedOpcode) ∧ short.mover = some .timer ∧
      ((sample .initialized 999).Live ∧ (sample .initialized 999).mover = none) := ⟨⟨by decide, rfl, rfl⟩, by decide, by decide⟩

/-- Each agent's turn where both can step; each agent where only it can; a settled word, a host that goes on, an ended
stream. -/
theorem witness_EitherAgentMayStepNext :
    ((withWords [0#64] short).TickEnabled ∧ (withWords [0#64] short).nextWord ≠ none ∧
      (withWords [0#64] short).turns = .host :: []) ∧
      (endless.TickEnabled ∧ endless.nextWord ≠ none ∧ ({ endless with turns := [.timer] } : State).turns = .timer :: []) ∧
      (short.phase = .running ∧ short.fault = none ∧ short.refusedWord = none ∧
        ({ short with turns := [.timer] } : State).turns = .timer :: []) ∧
      (short.TickEnabled ∧ short.nextWord = none) ∧
      (State.reset.Live ∧ State.reset.phase ≠ .running ∧ State.reset.nextWord ≠ none) ∧
      ((sample .initialized 999).phase ≠ .running ∧ (sample .initialized 999).nextWord = none) ∧
      (withWords [0#64] short).stream = 0#64 :: [] :=
  ⟨by decide, ⟨by decide, endless_nextWord, rfl⟩, by decide, by decide, ⟨by decide, by decide, nofun⟩, by decide, rfl⟩

theorem witness_PlacedWordRunsNext :
    (State.reset.Live ∧ decodeTableWord 64 0x1000000000000000 = some .init) ∧ short.Live := by decide

theorem witness_TickEnabledExactly :
    short.mover = some .timer ∧ short.phase = .running ∧ short.fault = none ∧ short.refusedWord = none := by decide

theorem witness_TickCountsOrWraps :
    ({ short with cnt := 2 } : State).cnt < short.arrAct ∧ short.arrAct ≤ maxPeriod short.cfg ∧
      ({ short with cnt := 3 } : State).arrAct ≤ ({ short with cnt := 3 } : State).cnt ∧
      pending.arrPre ≤ pending.cnt := by decide

theorem witness_CounterAboveThePeriodWrapsNext :
    pending.Live ∧ pending.phase = .running ∧ pending.cfg.forcedUpdateResetsCounter = false ∧
      pending.arrPre < pending.cnt := by decide

theorem witness_OutputFunction :
    short.Live ∧ short.phase = .running ∧ short.out .ch1 = true ∧ short.ccrAct.get .ch2 = 0 := by decide

/-- A running state that a SETFREQ has faulted in, as the policy Fault has it. -/
theorem witness_OutputFunctionAfterAFault :
    ¬ (raiseFault .periodOverflow 0x200000000000000F#64 short).Live ∧
      (raiseFault .periodOverflow 0x200000000000000F#64 short).phase = .running ∧
      (raiseFault .periodOverflow 0x200000000000000F#64 short).out .ch1 = true := by decide

/-- The stream has ended; or it goes on and the cycle's turns are the timer's. -/
theorem witness_CycleLength :
    (short.TickEnabled ∧ short.cnt = 0 ∧ delivered (short.arrAct + 1) short = [] ∧ 3 ≤ short.arrAct) ∧
      delivered (short.arrAct + 1) { endless with turns := [.timer, .timer, .timer, .timer] } = [] :=
  ⟨⟨by decide, rfl, rfl, by decide⟩, rfl⟩

theorem witness_DutyFraction :
    short.TickEnabled ∧ short.cnt = 0 ∧ short.cce.get .ch1 = true ∧ delivered (short.arrAct + 1) short = [] ∧
      3 ≤ short.arrAct := ⟨by decide, rfl, rfl, rfl, by decide⟩

/-- Running with a SETFREQ to deliver between two TICKs, and at the last tick of the cycle. -/
def latency : State :=
  { short with stream := [encode (.setfreq 1000#32)], turns := [.timer, .host, .timer] }

theorem latency_hypotheses :
    latency.TickEnabled ∧ latency.cnt ≤ latency.arrAct ∧ ∀ w ∈ delivered 3 latency, w ≠ encode .start :=
  ⟨by decide, by decide, (show delivered 3 latency = [encode (.setfreq 1000#32)] from rfl) ▸
    List.forall_mem_singleton.2 (by decide)⟩

theorem witness_PreloadLatency :
    (latency.TickEnabled ∧ latency.cnt ≤ latency.arrAct ∧ (∀ w ∈ delivered 3 latency, w ≠ encode .start)) ∧
      (∃ t, stateAfter 3 latency = some t ∧ t.arrPre = 999) ∧
      (waveform 3 latency).length = 2 ∧ (waveform 3 latency).length ≤ latency.arrAct - latency.cnt ∧
      (stateAfter 0 { short with cnt := 3 } = some { short with cnt := 3 } ∧
        (waveform 0 { short with cnt := 3 }).length = 3 - 3 ∧
        ({ short with cnt := 3 } : State).mover = some .timer) :=
  ⟨latency_hypotheses, ⟨_, rfl, rfl⟩, rfl, (show _ = 2 from rfl).trans_le (by decide), rfl, rfl, rfl⟩

theorem witness_PreloadsDoNotShowMidCycle :
    (latency.TickEnabled ∧ latency.cnt ≤ latency.arrAct ∧ (∀ w ∈ delivered 3 latency, w ≠ encode .start)) ∧
      (waveform 3 latency).length ≤ latency.arrAct - latency.cnt ∧ latency.arrPre ≠ 17 :=
  ⟨latency_hypotheses, (show _ = 2 from rfl).trans_le (by decide), by decide⟩

theorem witness_OnlyUpdateEventsWriteActive :
    (∃ t, step { pending with cnt := 999 } = .next t ∧ t.arrAct ≠ pending.arrAct) ∧
      ∃ t, step (withWords [encode .start] pending) = .next t ∧ t.ccrAct ≠ pending.ccrAct :=
  ⟨⟨_, rfl, by decide⟩, _, rfl, by decide⟩

theorem witness_WritersOfEachElement :
    (∃ t, step (withWords [encode .init] State.reset) = .next t ∧ t.arrPre ≠ State.reset.arrPre ∧
      t.cce ≠ State.reset.cce) ∧
      (∃ t, step (withWords [encode (.setdc 0#8 500#32)] short) = .next t ∧ t.ccrPre.get .ch1 ≠ short.ccrPre.get .ch1) ∧
      ∃ t, step short = .next t ∧ t.cnt ≠ short.cnt :=
  ⟨⟨_, rfl, by decide, by decide⟩, ⟨_, rfl, by decide⟩, _, rfl, by decide⟩

theorem witness_InvariantAtPowerOn :
    ∃ s, State.build? Config.defaults Draws.zero [encode .init] false [.host] = some s := ⟨_, rfl⟩

theorem witness_StepKeepsInvariant : (sample .running 999).Inv ∧ ∃ t, step (sample .running 999) = .next t :=
  ⟨⟨by decide, by decide, fun _ => ⟨1000, by decide⟩, by decide, by decide, by decide⟩, _, rfl⟩

theorem witness_ReachableInvariants : ∃ s, Reachable s ∧ s.Live ∧ s.phase = .running := by
  refine ⟨_, .step _ _ (.step _ _ (.powerOn Config.defaults Draws.zero [encode .init, encode .start] true [] _ rfl) rfl) rfl,
    ?_, ?_⟩
  · exact ⟨rfl, rfl⟩
  · rfl

theorem witness_PeriodOfTheFrequencyInForce :
    (sample .initialized 9999).phase ≠ .uninitialized ∧
      (withWords [encode (.setfreq 1000#32)] (sample .initialized 9999)).arrPre = period Config.defaults 100 ∧
      ∃ t, stateAfter 1 (withWords [encode (.setfreq 1000#32)] (sample .initialized 9999)) = some t ∧ t.Live ∧
        t.arrPre = 999 := ⟨by decide, by decide, _, rfl, by decide, by decide⟩

/-- One word of two delivered, and a word of a host that goes on delivered past the settled ones. -/
theorem witness_DeliveredInStreamOrder :
    (∃ t, stateAfter 1 (withWords [encode .start, encode .start] short) = some t ∧ t.stream ≠ [] ∧
      delivered 1 (withWords [encode .start, encode .start] short) = [encode .start]) ∧
      endless.hostGoesOn = true ∧ ∃ t, stateAfter 1 { endless with turns := [.timer] } = some t :=
  ⟨⟨_, rfl, by decide, rfl⟩, rfl, _, rfl⟩

theorem witness_EveryInfiniteInterleavingIsARun :
    endless.TickEnabled ∧ endless.hostGoesOn = true ∧ endless.stream = [] ∧ endless.turns = [] ∧
      ∀ _ : Nat, ∃ i, decode 0x4000000000000000#64 = .ok i ∧ i ≠ .init ∧ ¬ Overflows endless.cfg i :=
  ⟨by decide, rfl, rfl, rfl, fun _ => ⟨.start, rfl, by decide, id⟩⟩

/-- The run of `short` in which the host delivers nothing. -/
def ticking : Nat → State
  | 0 => short
  | n + 1 => tick (passTurn (ticking n))

theorem ticking_enabled (n : Nat) : (ticking n).TickEnabled ∧ (ticking n).nextWord = none := by
  rw [nextWord_eq_none_iff]
  induction n with
  | zero => decide
  | succ n ih => simpa [ticking, State.TickEnabled, State.Live] using ih

theorem ticking_mover (n : Nat) : (ticking n).mover = some .timer :=
  mover_of_timer_only (ticking_enabled n).2 (ticking_enabled n).1

theorem ticking_isRun : IsRun ticking := by
  refine fun n => ⟨ticking (n + 1), ?_, [], [], .inl rfl, by simp [State.settle]⟩
  unfold step
  rw [ifLive_of_live (ticking_enabled n).1.2, ticking_mover n]
  rfl

/-- START delivered without end, so that no TICK is ever taken. -/
def starving (n : Nat) : State :=
  { short with stream := [encode .start], turns := [.host], hostGoesOn := true, draw := n }

theorem starving_isRun : IsRun starving :=
  fun n => ⟨{ starving (n + 1) with stream := [], turns := [] }, rfl, [encode .start], [.host], .inr rfl, rfl⟩

/-- A fair run; and a run that delivers a command at every step and is not fair, so that the premise is no theorem. -/
theorem witness_UpdateEventsKeepComing :
    (IsRun ticking ∧ WeaklyFair ticking ∧ (ticking 0).phase = .running) ∧
      IsRun starving ∧ (∀ n, (starving n).mover = some .host ∧ (starving n).phase = .running) ∧ ¬ WeaklyFair starving := by
  refine ⟨⟨ticking_isRun, fun _ n => ⟨n, le_rfl, ticking_mover n⟩, rfl⟩, starving_isRun, fun _ => ⟨rfl, rfl⟩, fun h => ?_⟩
  obtain ⟨_, -, hk⟩ := h ⟨0, fun _ _ => rfl⟩ 0
  cases hk

end Sys2Proof.Tests
end

section
/-! ## Which configurations a machine is built from (00_scope.md R12) -/

namespace Sys2Proof.Machine

/-- The three clauses of R12, with the acceptance predicate (R105) and the period (R104) written out. -/
theorem wellFormed_iff (c : Config) : c.WellFormed ↔
    (1 ≤ c.maxFreqHz ∧ 2 * c.maxFreqHz ≤ c.tickRateHz) ∧
      ((1 ≤ c.defaultFreqHz ∧ c.defaultFreqHz ≤ c.maxFreqHz) ∧
        1 ≤ c.tickRateHz / c.defaultFreqHz - 1 ∧ c.tickRateHz / c.defaultFreqHz - 1 ≤ maxPeriod c) ∧
      c.tickRateHz ≤ 2 ^ 32 - 1 :=
  Iff.rfl

section Build

variable {c : Config} {d : Draws} {ws : List Word} {b : Bool} {ts : List Agent}

/-- All that `build?` does, for later proofs to cite in either direction. -/
theorem build?_eq_some_iff {s : State} : State.build? c d ws b ts = some s ↔
    c.WellFormed ∧ d.Fits c ∧ { State.powerOn c d with stream := ws, hostGoesOn := b, turns := ts } = s := by
  rw [State.build?, Option.ite_none_right_eq_some, Option.some_inj, and_assoc]

theorem build?_eq_none_of_not_wellFormed (hc : ¬ c.WellFormed) : State.build? c d ws b ts = none :=
  Option.eq_none_iff_forall_ne_some.2 fun _ built => hc (build?_eq_some_iff.1 built).1

theorem build?_of_wellFormed (hc : c.WellFormed) (hd : d.Fits c) : State.build? c d ws b ts =
    some { State.powerOn c d with stream := ws, hostGoesOn := b, turns := ts } :=
  build?_eq_some_iff.2 ⟨hc, hd, rfl⟩

end Build

/-- Settles O10: the clauses of R12 are `wellFormed_iff`, the defaults are computed, and the two sides of the refusal
are read off `build?_eq_some_iff`. -/
theorem onlyWellFormedConfigsBuild : Obligations.OnlyWellFormedConfigsBuild := by
  refine ⟨wellFormed_iff, ?defaults, ?refused, ?built⟩
  case defaults => decide
  case refused => exact fun _ _ _ _ _ hc => build?_eq_none_of_not_wellFormed hc
  case built => exact fun _ _ _ _ _ hc hd => build?_of_wellFormed hc hd

end Sys2Proof.Machine
end

section
/-! ## The constant MODE (10_state.md R33) -/

namespace Sys2Proof.Machine

/-- No field of the state enters the reading (log entry 19), so no command changes it. -/
@[simp] theorem readElem_mode (s : State) : s.readElem .mode = 0x03F0 :=
  rfl

/-- Settles O18: the reading is `readElem_mode`; each field is a fixed slice of one constant, so the table is
computed. -/
theorem modeIsConstant : Obligations.ModeIsConstant := by
  refine ⟨readElem_mode, ?fields⟩
  case fields => decide

end Sys2Proof.Machine
end

section
/-! ## The decoder's verdict read off the word as a number, and the words of each command (30_encoding.md R73 to R78) -/

namespace Sys2Proof

/-! ### The decoder's tests and operands over numbers -/

theorem opField_eq_iff (w : Word) (op : BitVec 4) : opField w = op ↔ w.toNat / 2 ^ 60 = op.toNat := by
  rw [← BitVec.toNat_inj, toNat_opField]

theorem le_opField_iff (w : Word) (op : BitVec 4) : op ≤ opField w ↔ op.toNat ≤ w.toNat / 2 ^ 60 := by
  rw [BitVec.le_def, toNat_opField]

theorem rsvField_eq_iff (w : Word) (rsv : BitVec 20) :
    rsvField w = rsv ↔ w.toNat / 2 ^ 40 % 2 ^ 20 = rsv.toNat := by
  rw [← BitVec.toNat_inj, toNat_rsvField]

theorem chanField_eq_iff (w : Word) (chan : BitVec 8) :
    chanField w = chan ↔ w.toNat / 2 ^ 32 % 2 ^ 8 = chan.toNat := by
  rw [← BitVec.toNat_inj, toNat_chanField]

/-- CHAN and VAL together are the low 40 bits, which R78 tests as one field for INIT and START. -/
theorem chanField_valField_eq_zero_iff (w : Word) :
    (chanField w = 0#8 ∧ valField w = 0#32) ↔ w.toNat % 2 ^ 40 = 0 := by
  rw [chanField_eq_iff, ← BitVec.toNat_inj, toNat_valField, BitVec.toNat_ofNat, BitVec.toNat_ofNat]
  omega

theorem chanField_eq_ofNat (w : Word) : chanField w = BitVec.ofNat 8 (w.toNat / 2 ^ 32) := by
  rw [chanField_eq_iff, BitVec.toNat_ofNat]

theorem valField_eq_ofNat (w : Word) : valField w = BitVec.ofNat 32 w.toNat := by
  rw [← BitVec.toNat_inj, toNat_valField, BitVec.toNat_ofNat]

/-! ### The decoder and the encoder are inverse to each other -/

theorem decode_encode (i : Instr) : decode (encode i) = .ok i := by
  cases i <;> simp [encode, decode]

/-- A word past the reserved opcodes that is none of 1, 2 and 3 has the opcode of START. -/
theorem opField_eq_four {w : Word} (hres : ¬ (opField w = 0x0#4 ∨ 0x5#4 ≤ opField w)) (h1 : opField w ≠ 0x1#4)
    (h2 : opField w ≠ 0x2#4) (h3 : opField w ≠ 0x3#4) : opField w = 0x4#4 := by
  bv_omega

theorem encode_of_decode {w : Word} {i : Instr} (h : decode w = .ok i) : encode i = w := by
  rw [← ofFields_fields w]
  unfold decode at h
  split_ifs at h with hres hrsv h1 hcv h2 hc h3 hcv <;> cases h <;> rw [not_not] at hrsv
  · rw [h1, hrsv, hcv.1, hcv.2, encode]
  · rw [h2, hrsv, hc, encode]
  · rw [h3, hrsv, encode]
  · rw [opField_eq_four hres h1 h2 h3, hrsv, hcv.1, hcv.2, encode]

/-- Every command has one word, and that word decodes to no other command. -/
theorem decode_eq_ok_iff {w : Word} {i : Instr} : decode w = .ok i ↔ w = encode i :=
  ⟨fun h => (encode_of_decode h).symm, fun h => h ▸ decode_encode i⟩

end Sys2Proof

namespace Sys2Proof.Machine

/-- Settles O4: each test of the decoder is a test of the word's number, and a refusal is `deliver_of_error`. -/
theorem decoderVerdicts : Obligations.DecoderVerdicts := by
  refine ⟨fun w => ?verdict, fun w r s hl h => ?refusal⟩
  case verdict =>
    simp only [decode, chanField_valField_eq_zero_iff, opField_eq_iff, le_opField_iff, rsvField_eq_iff,
      BitVec.reduceToNat, ne_eq, ite_not]
    simp only [chanField_eq_iff, BitVec.reduceToNat]
    rw [chanField_eq_ofNat, valField_eq_ofNat]
  case refusal => exact deliver_of_error hl h

/-- Settles O5: by `decode_eq_ok_iff` the one word of a command is its encoding, a literal for INIT and START and
for SETFREQ and SETDC the sum of the fields that `toNat_ofFields` gives. -/
theorem wordsOfEachCommand : Obligations.WordsOfEachCommand := by
  intro w
  have fullMask : w &&& 0xFFFFFFFFFFFFFFFF#64 = w := BitVec.and_allOnes
  rw [fullMask]
  refine ⟨decode_eq_ok_iff, decode_eq_ok_iff, fun f => ?setfreq, fun c d => ?setdc⟩
  case setfreq | setdc =>
    rw [decode_eq_ok_iff, ← BitVec.toNat_inj, encode, toNat_ofFields]
    simp

end Sys2Proof.Machine
end

section
/-! ## The period of a frequency (40_timer_core.md R104, R105) -/

namespace Sys2Proof.Machine

section Bounds

variable {c : Config} {f : Nat}

/-- The largest frequency with a period of at least 1 is half the tick rate. -/
theorem one_le_period_iff (hf : 1 ≤ f) : 1 ≤ period c f ↔ 2 * f ≤ c.tickRateHz := by
  rw [← Nat.le_div_iff_mul_le hf, period]
  omega

/-- R12 (a) bounds every frequency in range, whether or not its period fits. -/
theorem two_mul_le_tickRateHz (hc : c.WellFormed) (hf : FreqInRange c f) : 2 * f ≤ c.tickRateHz := by
  obtain ⟨⟨-, hmax⟩, -, -⟩ := hc
  exact (Nat.mul_le_mul_left 2 hf.2).trans hmax

end Bounds

/-- Settles O11: a frequency up to the tick rate divides it at least once, and in a well-formed configuration one in
range divides it at least twice. -/
theorem periodOfFrequency : Obligations.PeriodOfFrequency := by
  refine ⟨fun c f h1 hf => ?quotient, fun c f hc hf => ?atMostRate, fun c f hc hf => ?positive⟩
  case quotient => exact ⟨Nat.div_pos hf h1, rfl⟩
  case atMostRate =>
    have hle := two_mul_le_tickRateHz hc hf.1
    exact ⟨hf.1.1, by omega⟩
  case positive => exact (one_le_period_iff hf.1).2 (two_mul_le_tickRateHz hc hf)

end Sys2Proof.Machine
end

section
/-! ## What each Timer Core command answers in a live state, case by case (40_timer_core.md R100, R106, R109, R110) -/

namespace Sys2Proof.Machine

section Outcomes

variable {s : State} (hl : s.Live)
include hl

/-! ### INIT -/

theorem exec_init_of_running (hp : s.phase = .running) :
    exec .init s = .next (raiseFault .initWhileRunning (encode .init) s) := by
  simp only [exec, execInit, ifLive_of_live hl, hp]

theorem exec_init_of_not_running (hp : s.phase ≠ .running) : exec .init s = .next (configure s) := by
  cases hq : s.phase with
  | uninitialized | initialized => simp only [exec, execInit, ifLive_of_live hl, hq]
  | running => exact absurd hq hp

/-! ### SETFREQ -/

theorem exec_setfreq_of_uninitialized (f : BitVec 32) (hp : s.phase = .uninitialized) :
    exec (.setfreq f) s = .next (raiseFault .useBeforeInit (encode (.setfreq f)) s) := by
  rw [exec, execSetfreq, ifLive_of_live hl, if_pos hp]

theorem exec_setfreq_of_not_inRange {f : BitVec 32} (hp : s.phase ≠ .uninitialized)
    (hf : ¬ FreqInRange s.cfg f.toNat) : exec (.setfreq f) s = .next s := by
  rw [exec, execSetfreq, ifLive_of_live hl, if_neg hp, if_pos hf]

theorem exec_setfreq_of_not_fits {f : BitVec 32} (hp : s.phase ≠ .uninitialized) (hf : FreqInRange s.cfg f.toNat)
    (hok : ¬ FreqOK s.cfg f.toNat) : exec (.setfreq f) s = .next (oversizePeriod f s) := by
  rw [exec, execSetfreq, ifLive_of_live hl, if_neg hp, if_neg (not_not.2 hf), if_pos hok]

theorem exec_setfreq_of_ok {f : BitVec 32} (hp : s.phase ≠ .uninitialized) (hok : FreqOK s.cfg f.toNat) :
    exec (.setfreq f) s = .next (writePeriod (period s.cfg f.toNat) s) := by
  rw [exec, execSetfreq, ifLive_of_live hl, if_neg hp, if_neg (not_not.2 hok.1), if_neg (not_not.2 hok)]

/-! ### START -/

theorem exec_start_of_uninitialized (hp : s.phase = .uninitialized) :
    exec .start s = .next (raiseFault .useBeforeInit (encode .start) s) := by
  rw [exec, execStart, ifLive_of_live hl, if_pos hp]

theorem exec_start_of_not_uninitialized (hp : s.phase ≠ .uninitialized) :
    exec .start s = .next (writePhase .running (forceUpdate s)) := by
  rw [exec, execStart, ifLive_of_live hl, if_neg hp]

end Outcomes

theorem oversizePeriod_eq_ite (f : BitVec 32) (s : State) : oversizePeriod f s =
    if s.cfg.oversizePeriodPolicy = .fault then raiseFault .periodOverflow (encode (.setfreq f)) s else s := by
  obtain ⟨hpol, e⟩ | ⟨hpol, e⟩ := oversizePeriod_cases f s
  · rw [e, if_neg (by simp [hpol])]
  · rw [e, if_pos hpol]

/-- INIT never leaves the counter running: where it does not fault, it stops it. -/
theorem not_tickEnabled_of_exec_init {s t : State} (hp : s.phase ≠ .running) (h : exec .init s = .next t) :
    ¬ t.TickEnabled := by
  obtain rfl : configure s = t :=
    Host.Outcome.next.inj ((exec_init_of_not_running (live_of_exec h) hp).symm.trans h)
  rintro ⟨hrun, -⟩
  cases (configure_phase s).symm.trans hrun

theorem encode_init : encode .init = 0x1000000000000000#64 :=
  rfl

theorem encode_start : encode .start = 0x4000000000000000#64 :=
  rfl

/-- Settles O21: past the guard INIT faults in phase 2 and otherwise commits `configure`, whose fields the statement
writes out. -/
theorem initOutcome : Obligations.InitOutcome := by
  refine ⟨decode_eq_ok_iff.2 encode_init.symm, fun s hl hp => ?stopped, fun s hl hp => ?running,
    fun _ _ hp h => not_tickEnabled_of_exec_init hp h, ?default⟩
  case stopped =>
    rw [exec_init_of_not_running hl hp]
    rfl
  case running =>
    rw [exec_init_of_running hl hp, encode_init]
    rfl
  case default => decide

/-- Settles O24: the four exclusive cases of R106, each an equation above, and the worked periods computed. -/
theorem setfreqOutcome : Obligations.SetfreqOutcome := by
  refine ⟨fun s f hl hp => ?beforeInit, fun s f hl hp hf => ?outOfRange, fun s f hl hp hf hfit => ?oversize,
    fun s f hl hp hf hfit => ?accepted, ?periods⟩
  case beforeInit => exact exec_setfreq_of_uninitialized hl f hp
  case outOfRange => exact exec_setfreq_of_not_inRange hl hp hf
  case oversize =>
    rw [exec_setfreq_of_not_fits hl hp hf fun hok => hfit hok.2, oversizePeriod_eq_ite]
    rfl
  case accepted => exact exec_setfreq_of_ok hl hp ⟨hf, hfit⟩
  case periods => decide

/-- Settles O28: past phase 0 START forces an update event, which keeps the counter or sets it to 0 as the parameter
says, and runs the counter. -/
theorem startOutcome : Obligations.StartOutcome := by
  refine ⟨decode_eq_ok_iff.2 encode_start.symm, fun s hl hp => ?beforeInit, fun s hl hp hkeep => ?keep,
    fun s hl hp hreset => ?reset⟩
  case beforeInit =>
    rw [exec_start_of_uninitialized hl hp, encode_start]
    rfl
  case keep =>
    rw [exec_start_of_not_uninitialized hl hp, forceUpdate_of_keep hkeep]
    rfl
  case reset =>
    rw [exec_start_of_not_uninitialized hl hp, forceUpdate_of_reset hreset]
    rfl

end Sys2Proof.Machine
end

section
/-! ## The compare value of a duty (41_channel_driver.md R131) -/

namespace Sys2Proof.Machine

theorem compareValue_le (p : Nat) {d : Nat} (hd : DutyOK d) : compareValue p d ≤ p :=
  Nat.div_le_of_le_mul (Nat.mul_comm p d ▸ Nat.mul_le_mul_right p hd)

theorem mul_duty_lt_two_pow_42 {p d : Nat} (hp : p ≤ 2 ^ 32 - 1) (hd : DutyOK d) : p * d < 2 ^ 42 :=
  calc p * d ≤ (2 ^ 32 - 1) * perMilleFull := Nat.mul_le_mul hp hd
    _ < 2 ^ 42 := by decide

/-- A 64-bit multiplication and division compute the compare value wherever the product fits: then nothing wraps. -/
theorem toNat_mul_udiv_eq_compareValue {p d : Nat} (hpd : p * d < 2 ^ 64) :
    (BitVec.ofNat 64 p * BitVec.ofNat 64 d / 1000#64).toNat = compareValue p d := by
  rw [← BitVec.ofNat_mul, BitVec.toNat_udiv, BitVec.toNat_ofNat, Nat.mod_eq_of_lt hpd]
  rfl

/-- Settles O13: the product stays below 2^42, so below 2^64, and a duty up to 1000 keeps the quotient within the
period. -/
theorem compareIsExact : Obligations.CompareIsExact := by
  intro p d hp hd
  have hpd : p * d < 2 ^ 42 := mul_duty_lt_two_pow_42 hp hd
  exact ⟨rfl, hpd, compareValue_le p hd, toNat_mul_udiv_eq_compareValue (hpd.trans (by decide))⟩

end Sys2Proof.Machine
end

section
/-! ## What SETDC answers in a live state, case by case (41_channel_driver.md R132, R133) -/

namespace Sys2Proof.Machine

/-! ### The channel an identifier names -/

theorem chanOffset_le (c : Channel) : chanOffset c ≤ 3 := by
  cases c <;> decide

theorem chanOf_eq_some_iff {b : BitVec 8} {c : Channel} : chanOf b = some c ↔ b.toNat = chanOffset c := by
  have hc := chanOffset_le c
  unfold chanOf
  split_ifs with h1 h2 h3 h4
  case neg =>
    simp only [false_iff]
    bv_omega
  all_goals
    subst b
    cases c <;> decide

theorem chanOf_eq_none_iff {b : BitVec 8} : chanOf b = none ↔ 3 < b.toNat := by
  unfold chanOf
  split_ifs with h1 h2 h3 h4
  case neg =>
    simp only [true_iff]
    bv_omega
  all_goals
    subst b
    decide

/-! ### The cases of SETDC -/

section Outcomes

variable {s : State} (hl : s.Live)
include hl

theorem exec_setdc_of_uninitialized (b : BitVec 8) (d : BitVec 32) (hp : s.phase = .uninitialized) :
    exec (.setdc b d) s = .next (raiseFault .useBeforeInit (encode (.setdc b d)) s) := by
  rw [exec, execSetdc, ifLive_of_live hl, if_pos hp]

theorem exec_setdc_of_no_channel {b : BitVec 8} (d : BitVec 32) (hp : s.phase ≠ .uninitialized)
    (hb : chanOf b = none) : exec (.setdc b d) s = .next s := by
  rw [exec, execSetdc, ifLive_of_live hl, if_neg hp, hb]

theorem exec_setdc_of_not_dutyOK (b : BitVec 8) {d : BitVec 32} (hp : s.phase ≠ .uninitialized)
    (hd : ¬ DutyOK d.toNat) : exec (.setdc b d) s = .next s := by
  cases hb : chanOf b with
  | none => exact exec_setdc_of_no_channel hl d hp hb
  | some c => simp only [exec, execSetdc, ifLive_of_live hl, if_neg hp, hb, if_pos hd]

theorem exec_setdc_of_ok {b : BitVec 8} {d : BitVec 32} {c : Channel} (hp : s.phase ≠ .uninitialized)
    (hb : chanOf b = some c) (hd : DutyOK d.toNat) :
    exec (.setdc b d) s = .next (writeCompare c (compareValue s.arrPre d.toNat) s) := by
  simp only [exec, execSetdc, ifLive_of_live hl, if_neg hp, hb, if_neg (not_not.2 hd)]

end Outcomes

/-- Settles O26: the phase check, the two rejections and the write, each an equation above; the write to one channel's
bank entry leaves the others. -/
theorem setdcOutcome : Obligations.SetdcOutcome := by
  refine ⟨fun s b d hl hp => ?beforeInit, fun s b d hl hp hrej => ?rejected, fun s b d c hl hp hb hd => ?accepted,
    ?values⟩
  case beforeInit => exact exec_setdc_of_uninitialized hl b d hp
  case rejected =>
    obtain hb | hd := hrej
    · exact exec_setdc_of_no_channel hl d hp (chanOf_eq_none_iff.2 hb)
    · exact exec_setdc_of_not_dutyOK hl b hp (Nat.not_le.2 hd)
  case accepted =>
    exact ⟨_, exec_setdc_of_ok hl hp (chanOf_eq_some_iff.2 hb) hd, rfl, Bank.get_set_self _ _ _,
      fun _ hc => Bank.get_set_other _ _ hc⟩
  case values => decide

end Sys2Proof.Machine
end

section
/-! ## TICK and the outputs while running (45_counter_and_outputs.md R150 to R158) -/

namespace Sys2Proof.Machine

/-! ### TICK -/

theorem tick_cnt_of_lt {s : State} (h : s.cnt < s.arrAct) : (tick s).cnt = s.cnt + 1 := by
  rw [tick_of_lt h, writeCounter_cnt]

/-- A TICK at or above the active period ends the cycle: the counter wraps and the preload registers are latched. -/
theorem tick_wraps_of_le {s : State} (h : s.arrAct ≤ s.cnt) :
    (tick s).cnt = 0 ∧ (tick s).arrAct = s.arrPre ∧ (tick s).ccrAct = s.ccrPre := by
  rw [tick_of_le h]
  exact ⟨rfl, rfl, rfl⟩

/-! ### The outputs -/

theorem out_eq_true_iff {s : State} (hp : s.phase = .running) (c : Channel) :
    s.out c = true ↔ s.cce.get c = true ∧ s.cnt < s.ccrAct.get c := by
  rw [out_of_running hp, Bool.and_eq_true, decide_eq_true_iff]

/-- A compare value of 0 keeps the output permanently low. -/
theorem out_eq_false_of_compare_zero {s : State} {c : Channel} (hp : s.phase = .running) (h0 : s.ccrAct.get c = 0) :
    s.out c = false := by
  rw [Bool.eq_false_iff, Ne, out_eq_true_iff hp, h0]
  exact fun h => Nat.not_lt_zero _ h.2

/-- Settles O44: a forced update that keeps the counter moves the active period down to ARR_PRE, below CNT, so the next
TICK is one that wraps; until then the counter is compared with the compare values just latched. -/
theorem counterAboveThePeriodWrapsNext : Obligations.CounterAboveThePeriodWrapsNext := by
  intro s hl hp hkeep hlt
  have hstart : exec .start s = .next (writePhase .running (updateLatch s)) := by
    rw [exec_start_of_not_uninitialized hl (by simp [hp]), forceUpdate_of_keep hkeep]
  refine ⟨_, hstart, hlt, rfl, fun c => ?_, tick_wraps_of_le hlt.le⟩
  exact out_of_running (writePhase_phase _ _) c

/-- Settles O42: the timer is ready exactly where TICK is enabled, and it moves only where it is ready. -/
theorem tickEnabledExactly : Obligations.TickEnabledExactly :=
  ⟨fun _ => timerReady_iff, fun _ => timer_of_mover⟩

/-- Settles O43: the two branches of TICK; counting up stays within the width because it stops at ARR_ACT. -/
theorem tickCountsOrWraps : Obligations.TickCountsOrWraps := by
  refine ⟨fun s => tick_of_lt, fun s hlt hfit => ?_, fun s => tick_of_le⟩
  calc (tick s).cnt = s.cnt + 1 := tick_cnt_of_lt hlt
    _ ≤ s.arrAct := hlt
    _ ≤ maxPeriod s.cfg := hfit

/-- Settles O45: while running an output is its enable and the comparison, which no counter value passes at 0. -/
theorem outputFunction : Obligations.OutputFunction :=
  ⟨fun _ c _ hp => out_eq_true_iff hp c, fun _ _ _ hp h0 => out_eq_false_of_compare_zero hp h0⟩

end Sys2Proof.Machine
end

section
/-! ## Faults, rejections and refusals (60_exceptions.md R201 to R205) -/

namespace Sys2Proof.Machine

/-! ### When a command faults, and when it is rejected -/

section Conditions

variable {s : State} {i : Instr} (hl : s.Live)
include hl

/-- UseBeforeInit: in phase 0 every command but INIT faults. -/
theorem exec_of_uninitialized (hp : s.phase = .uninitialized) (hi : i ≠ .init) :
    exec i s = .next (raiseFault .useBeforeInit (encode i) s) := by
  cases i with
  | init => exact absurd rfl hi
  | setfreq f => exact exec_setfreq_of_uninitialized hl f hp
  | setdc b d => exact exec_setdc_of_uninitialized hl b d hp
  | start => exact exec_start_of_uninitialized hl hp

/-- PeriodOverflow: past the phase check a SETFREQ whose period does not fit faults under the policy Fault. -/
theorem exec_of_overflows (hp : s.phase ≠ .uninitialized) (ho : Overflows s.cfg i) :
    exec i s = .next (raiseFault .periodOverflow (encode i) s) := by
  cases i with
  | init | setdc _ _ | start => exact ho.elim
  | setfreq f =>
    obtain ⟨hf, hok, hpol⟩ := ho
    rw [exec_setfreq_of_not_fits hl hp hf hok, oversizePeriod_eq_ite, if_pos hpol]

/-- Past the phase check a command that meets one of REJ1 to REJ6 is a no-op. -/
theorem exec_of_rejected (hp : s.phase ≠ .uninitialized) (hr : Rejected s.cfg i) : exec i s = .next s := by
  cases i with
  | init | start => exact hr.elim
  | setfreq f =>
    obtain h0 | hmax | ⟨hf, hpol, hfit⟩ := hr
    · exact exec_setfreq_of_not_inRange hl hp fun hf => by omega
    · exact exec_setfreq_of_not_inRange hl hp fun hf => by omega
    · have hok : ¬ FreqOK s.cfg f.toNat := fun hok => by omega
      rw [exec_setfreq_of_not_fits hl hp hf hok, oversizePeriod_eq_ite, if_neg (by simp [hpol])]
  | setdc b d =>
    obtain hb | hd := hr
    · exact exec_setdc_of_no_channel hl d hp (chanOf_eq_none_iff.2 hb)
    · exact exec_setdc_of_not_dutyOK hl b hp (Nat.not_le.2 hd)

end Conditions

/-! ### What a command that sets FAULT found and did -/

section Raised

variable {i : Instr} {s t : State} (h : exec i s = .next t) (hf : t.fault ≠ none)
include h hf

/-- The conditions of R203 are the only ones under which a command sets FAULT. -/
theorem faultCondition_of_exec :
    (s.phase = .uninitialized ∧ i ≠ .init) ∨ (s.phase = .running ∧ i = .init) ∨
      (s.phase ≠ .uninitialized ∧ Overflows s.cfg i) := by
  cases i with
  | init =>
    obtain ⟨hl, ⟨hp, -⟩ | ⟨-, rfl⟩⟩ := execInit_cases h
    · exact .inr (.inl ⟨hp, rfl⟩)
    · exact absurd hl.1 hf
  | setfreq f =>
    obtain ⟨hl, ⟨hp, -⟩ | ⟨-, -, rfl⟩ | ⟨hp, hr, hok, rfl⟩ | ⟨-, -, rfl⟩⟩ := execSetfreq_cases h
    · exact .inl ⟨hp, nofun⟩
    · exact absurd hl.1 hf
    · obtain ⟨-, e⟩ | ⟨hpol, -⟩ := oversizePeriod_cases f s
      · exact absurd ((congrArg State.fault e).trans hl.1) hf
      · exact .inr (.inr ⟨hp, hr, hok, hpol⟩)
    · exact absurd hl.1 hf
  | setdc b d =>
    obtain ⟨hl, ⟨hp, -⟩ | ⟨-, -, rfl⟩ | ⟨-, -, c, -, rfl⟩⟩ := execSetdc_cases h
    · exact .inl ⟨hp, nofun⟩
    · exact absurd hl.1 hf
    · exact absurd hl.1 hf
  | start =>
    obtain ⟨hl, ⟨hp, -⟩ | ⟨-, rfl⟩⟩ := execStart_cases h
    · exact .inl ⟨hp, nofun⟩
    · exact absurd ((forceUpdate_fault s).trans hl.1) hf

/-- A command that sets FAULT does nothing but record its own word: each of R203's conditions has its equation. -/
theorem eq_raiseFault_of_exec : ∃ k, t = raiseFault k (encode i) s := by
  have hl : s.Live := live_of_exec h
  obtain ⟨hp, hi⟩ | ⟨hp, rfl⟩ | ⟨hp, ho⟩ := faultCondition_of_exec h hf
  · exact ⟨_, Host.Outcome.next.inj (h.symm.trans (exec_of_uninitialized hl hp hi))⟩
  · exact ⟨_, Host.Outcome.next.inj (h.symm.trans (exec_init_of_running hl hp))⟩
  · exact ⟨_, Host.Outcome.next.inj (h.symm.trans (exec_of_overflows hl hp ho))⟩

end Raised

/-- Only the decoder's refusal sets REFUSED: a command runs in a live state and keeps it None. -/
theorem eq_refuseWord_of_deliver {w : Word} {s t : State} (h : deliver w s = .next t) (hr : t.refusedWord ≠ none) :
    ∃ r, t = refuseWord r w s := by
  obtain ⟨hl, ⟨r, -, ht⟩ | ⟨i, -, hexec⟩⟩ := deliver_cases h
  · exact ⟨r, ht⟩
  · obtain ⟨-, hkeep, -⟩ := exec_keeps hexec
    exact absurd (hkeep.trans hl.2) hr

/-! ### The codes FAULT and REFUSED show -/

@[simp] theorem readElem_fault (s : State) : s.readElem .fault = faultCodeOf s.fault :=
  rfl

@[simp] theorem readElem_refused (s : State) : s.readElem .refused = reasonCodeOf s.refusedWord :=
  rfl

theorem readElem_of_live {s : State} (hl : s.Live) : s.readElem .fault = 0 ∧ s.readElem .refused = 0 := by
  rw [readElem_fault, readElem_refused, hl.1, hl.2]
  exact ⟨rfl, rfl⟩

/-- Settles O34: an equation for each kind's condition, the inversion `faultCondition_of_exec` for "in no other", and
the codes read off the records. -/
theorem faultKindsAndCodes : Obligations.FaultKindsAndCodes := by
  refine ⟨fun i s hl hp hi => ?useBeforeInit, fun s hl hp => ?initWhileRunning,
    fun f s hl hp hpol hf hok => ?periodOverflow, fun i s t h hf => ?noOther, fun s hl => ?none,
    fun s w => ?faultCodes, fun s w => ?reasonCodes⟩
  case useBeforeInit => exact exec_of_uninitialized hl hp hi
  case initWhileRunning => exact exec_init_of_running hl hp
  case periodOverflow => exact exec_of_overflows hl hp ⟨hf, hok, hpol⟩
  case noOther => exact faultCondition_of_exec h hf
  case none => exact readElem_of_live hl
  case faultCodes => exact ⟨rfl, rfl, rfl⟩
  case reasonCodes => exact ⟨rfl, rfl⟩

/-- Settles O35: the step delivers the command to the state with the word taken and the turn passed, which is live, in
the same phase and of the same configuration, so the rejection answers it unchanged. -/
theorem rejectedCommandsWriteNothing : Obligations.RejectedCommandsWriteNothing := by
  intro i s hl hp hr
  refine ⟨exec_of_rejected hl hp hr, fun hm hw => ?_⟩
  have hl' : (takeWord (passTurn s)).Live := hl
  calc step s = deliver (encode i) (takeWord (passTurn s)) := step_of_host hm hw
    _ = exec i (takeWord (passTurn s)) := deliver_of_ok hl' (decode_encode i)
    _ = .next (takeWord (passTurn s)) := exec_of_rejected hl' hp hr

/-- Settles O37: the two records are all that is written, and every command, delivery, step and TICK needs a live state,
which power-on reset gives back. -/
theorem faultsAndRefusalsAreQuiescent : Obligations.FaultsAndRefusalsAreQuiescent := by
  refine ⟨fun i s t h hf => ?fault, fun w s t h hr => ?refusal, fun s hn => ?quiescent, fun d s => ?reset⟩
  case fault =>
    obtain ⟨k, rfl⟩ := eq_raiseFault_of_exec h hf
    rfl
  case refusal =>
    obtain ⟨r, rfl⟩ := eq_refuseWord_of_deliver h hr
    rfl
  case quiescent =>
    have hnt : ¬ s.TickEnabled := fun ht => hn ht.2
    exact ⟨fun _ _ h => hn (live_of_exec h), fun _ _ h => hn (deliver_cases h).1, fun _ h => hn (step_cases h).1, hnt,
      mover_of_neither (.inr hn) hnt⟩
  case reset => exact ⟨rfl, rfl⟩

end Sys2Proof.Machine
end

section
/-! ## Power-on reset is the only reset (70_reset_and_hazards.md R230, R232) -/

namespace Sys2Proof.Machine

/-! ### The order of the phases -/

theorem phaseCode_eq_zero_iff {p : Phase} : phaseCode p = 0 ↔ p = .uninitialized := by
  cases p <;> decide

theorem phaseCode_le_running (p : Phase) : phaseCode p ≤ phaseCode .running := by
  cases p <;> decide

theorem phaseCode_le_initialized {p : Phase} (hp : p ≠ .running) : phaseCode p ≤ phaseCode .initialized := by
  cases p with
  | uninitialized | initialized => decide
  | running => exact absurd rfl hp

/-! ### PHASE never goes back -/

/-- Only two commits write PHASE: INIT's, which is not reached from phase 2, and START's, to the last phase. -/
theorem phaseCode_le_of_exec {i : Instr} {s t : State} (h : exec i s = .next t) :
    phaseCode s.phase ≤ phaseCode t.phase := by
  obtain ⟨-, rfl | ⟨_, rfl⟩ | ⟨-, hp, rfl⟩ | ⟨_, -, -, -, rfl⟩ | ⟨_, _, _, -, -, -, -, rfl⟩ | ⟨-, -, rfl⟩⟩ :=
    exec_cases h
  · exact le_rfl
  · rw [raiseFault_phase]
  · exact phaseCode_le_initialized hp
  · rw [writePeriod_phase]
  · rw [writeCompare_phase]
  · exact phaseCode_le_running s.phase

theorem phaseCode_le_of_deliver {w : Word} {s t : State} (h : deliver w s = .next t) :
    phaseCode s.phase ≤ phaseCode t.phase := by
  obtain ⟨-, ⟨_, -, rfl⟩ | ⟨_, -, hexec⟩⟩ := deliver_cases h
  · exact le_rfl
  · exact phaseCode_le_of_exec hexec

/-- TICK and waiting keep PHASE, so only the host's word can move it, and forward. -/
theorem phaseCode_le_of_step {s t : State} (h : step s = .next t) : phaseCode s.phase ≤ phaseCode t.phase := by
  obtain ⟨-, ⟨_, -, -, hdeliver⟩ | ⟨-, rfl⟩ | ⟨-, rfl⟩⟩ := step_cases h
  · simpa using phaseCode_le_of_deliver hdeliver
  · rw [tick_phase, passTurn_phase]
  · rw [passTurn_phase]

/-- Phase 0 is the least phase, so no step goes back to it. -/
theorem phase_ne_uninitialized_of_step {s t : State} (h : step s = .next t) (hp : s.phase ≠ .uninitialized) :
    t.phase ≠ .uninitialized := by
  rw [Ne, ← phaseCode_eq_zero_iff] at hp ⊢
  have hle := phaseCode_le_of_step h
  omega

/-! ### INIT is not a reset -/

/-- Neither INIT's fault record nor its commit writes the active registers. -/
theorem active_eq_of_exec_init {s t : State} (h : exec .init s = .next t) :
    t.arrAct = s.arrAct ∧ t.ccrAct = s.ccrAct := by
  obtain ⟨-, ⟨-, rfl⟩ | ⟨-, rfl⟩⟩ := execInit_cases h
  · exact ⟨raiseFault_arrAct .., raiseFault_ccrAct ..⟩
  · exact ⟨configure_arrAct s, configure_ccrAct s⟩

/-! ### The statements -/

/-- Settles O17: what power-on reset leaves is read off its definition; no step does the same, since PHASE never goes
back and a step needs a live state. -/
theorem powerOnResetLeaves : Obligations.PowerOnResetLeaves := by
  refine ⟨fun d s => ?leaves, fun _ _ => phase_ne_uninitialized_of_step, fun _ _ hn h => hn (step_cases h).1, ?reset⟩
  case leaves => exact ⟨rfl, rfl, rfl, readElem_mode _, rfl, rfl, rfl, rfl, rfl, rfl, rfl⟩
  case reset => exact ⟨rfl, rfl, rfl⟩

/-- Settles O33: every step keeps PHASE or moves it forward; INIT's two cases fault in phase 2 and otherwise leave the
active registers. -/
theorem noCommandResets : Obligations.NoCommandResets :=
  ⟨fun _ _ => phaseCode_le_of_step, fun _ => exec_init_of_running, fun _ _ => active_eq_of_exec_init⟩

end Sys2Proof.Machine
end

section
/-! ## The words of the opcode table are the words of the commands (30_encoding.md sections 2 and 4) -/

namespace Sys2Proof

/-- The word of a command matches the row of its mnemonic. -/
theorem rowOf_matches_encode (i : Instr) : rowOf i ∈ opcodeTable ∧ (rowOf i).Matches (encode i) := by
  cases i with
  | init => exact Laws.TableRowMatch.init
  | setfreq f => exact Laws.TableRowMatch.setfreq f
  | setdc c d => exact Laws.TableRowMatch.setdc c d
  | start => exact Laws.TableRowMatch.start

theorem rowOf_matches_of_decode {w : Word} {i : Instr} (h : decode w = .ok i) : (rowOf i).Matches w :=
  decode_eq_ok_iff.1 h ▸ (rowOf_matches_encode i).2

/-- A word that a row of the table matches decodes to a command of that row. -/
theorem exists_decode_of_matches {r : TableRow} (hr : r ∈ opcodeTable) {w : Word} (h : r.Matches w) :
    ∃ i, rowOf i = r ∧ decode w = .ok i := by
  have fullMask : w &&& 0xFFFFFFFFFFFFFFFF#64 = w := BitVec.and_allOnes
  simp only [opcodeTable, List.mem_cons, List.not_mem_nil, or_false] at hr
  simp only [decode_eq_ok_iff]
  obtain rfl | rfl | rfl | rfl := hr
  · exact ⟨.init, rfl, fullMask.symm.trans h⟩
  · rw [setfreqRow_matches] at h
    refine ⟨.setfreq (valField w), rfl, BitVec.eq_of_toNat_eq ?_⟩
    rw [encode, toNat_ofFields, toNat_valField, BitVec.toNat_ofNat, BitVec.toNat_ofNat, BitVec.toNat_ofNat]
    omega
  · rw [setdcRow_matches] at h
    refine ⟨.setdc (chanField w) (valField w), rfl, BitVec.eq_of_toNat_eq ?_⟩
    rw [encode, toNat_ofFields, toNat_valField, toNat_chanField, BitVec.toNat_ofNat, BitVec.toNat_ofNat]
    omega
  · exact ⟨.start, rfl, fullMask.symm.trans h⟩

/-- Settles O1: the fields of a command's word are its operands, so the decoder reads them back. -/
theorem decodeEncodeRoundTrip : Obligations.DecodeEncodeRoundTrip :=
  decode_encode

/-- Settles O2: each accepting branch of the decoder has checked every field its command fixes. -/
theorem encodeDecodeRoundTrip : Obligations.EncodeDecodeRoundTrip :=
  fun _ _ => encode_of_decode

/-- Settles O3: by `exists_decode_of_matches` a row that matches is the row of the one command the word decodes to. -/
theorem decoderAcceptsExactlyTheTable : Obligations.DecoderAcceptsExactlyTheTable := by
  intro w
  refine ⟨⟨fun ⟨i, hi⟩ => ?accepted, fun ⟨r, hr, h⟩ => ?matched⟩, fun r hr q hq h h' => ?unique, fun i hi => ?ownRow⟩
  case accepted => exact ⟨rowOf i, (rowOf_matches_encode i).1, rowOf_matches_of_decode hi⟩
  case matched =>
    obtain ⟨i, -, hi⟩ := exists_decode_of_matches hr h
    exact ⟨i, hi⟩
  case unique =>
    obtain ⟨i, rfl, hi⟩ := exists_decode_of_matches hr h
    obtain ⟨j, rfl, hj⟩ := exists_decode_of_matches hq h'
    cases hi.symm.trans hj
    rfl
  case ownRow => exact rowOf_matches_of_decode hi

/-- Settles O6: each word's fields are literals, so the decoder computes its verdict. -/
theorem sampleWordsDecode : Obligations.SampleWordsDecode :=
  ⟨rfl, rfl, rfl, rfl, rfl, rfl, rfl, rfl, rfl⟩

end Sys2Proof
end

section
/-! ## The eight bytes of a word (20_memory.md section 1) -/

namespace Sys2Proof

theorem toNat_byteOf (w : Word) (k : Nat) : (byteOf w k).toNat = w.toNat / 2 ^ (8 * k) % 2 ^ 8 := by
  rw [byteOf, BitVec.extractLsb'_toNat, Nat.shiftRight_eq_div_pow]

theorem byteOf_eq_ofNat (w : Word) (k : Nat) : byteOf w k = BitVec.ofNat 8 (w.toNat / 2 ^ (8 * k)) :=
  BitVec.eq_of_toNat_eq (by rw [toNat_byteOf, BitVec.toNat_ofNat])

theorem bytesOfWord_eq (w : Word) : bytesOfWord w =
    [byteOf w 0, byteOf w 1, byteOf w 2, byteOf w 3, byteOf w 4, byteOf w 5, byteOf w 6, byteOf w 7] :=
  rfl

theorem toNat_append_eq_add {m n : Nat} (x : BitVec m) (y : BitVec n) :
    (x ++ y).toNat = x.toNat * 2 ^ n + y.toNat := by
  rw [BitVec.toNat_append, ← Nat.shiftLeft_add_eq_or_of_lt y.isLt, Nat.shiftLeft_eq]

/-- Bytes carry a word exactly where they are the word's own bytes. -/
theorem wordOfBytes_eq_some_iff {bs : List Byte} {w : Word} : wordOfBytes bs = some w ↔ bytesOfWord w = bs := by
  constructor
  · intro h
    unfold wordOfBytes at h
    split at h
    · rw [← Option.some.inj h, bytesOfWord_eq]
      simp only [List.cons.injEq, and_true, ← BitVec.toNat_inj, toNat_byteOf, toNat_append_eq_add]
      and_intros <;> omega
    · cases h
  · rintro rfl
    rw [bytesOfWord_eq, wordOfBytes, Option.some_inj, ← BitVec.toNat_inj]
    simp only [toNat_append_eq_add, toNat_byteOf]
    omega

/-- Settles O7: byte `k` is a slice of the word, and `wordOfBytes_eq_some_iff` is both directions of the transport. -/
theorem wordBytesLittleEndian : Obligations.WordBytesLittleEndian := by
  refine ⟨fun w k hk => ?_, fun _ => wordOfBytes_eq_some_iff.2 rfl, fun _ _ => wordOfBytes_eq_some_iff.1⟩
  rw [bytesOfWord, List.getElem?_map, List.getElem?_range hk, Option.map_some, byteOf_eq_ofNat]

end Sys2Proof
end

section
/-! ## What a step does, by who takes it, and what every step keeps (10_state.md section 7, 20_memory.md section 2) -/

namespace Sys2Proof.Machine

/-- The cases of a step with the host's word decoded: a command, a refusal, a TICK, or waiting. -/
theorem step_cases_decoded {s t : State} (h : step s = .next t) :
    s.Live ∧
      ((∃ i, s.mover = some .host ∧ s.nextWord = some (encode i) ∧ exec i (takeWord (passTurn s)) = .next t) ∨
        (∃ w r, s.mover = some .host ∧ s.nextWord = some w ∧ decode w = .error r ∧
          t = refuseWord r w (takeWord (passTurn s))) ∨
        (s.mover = some .timer ∧ t = tick (passTurn s)) ∨
        (s.mover = none ∧ t = passTurn s)) := by
  obtain ⟨hl, ⟨w, hm, hw, hd⟩ | htimer | hnone⟩ := step_cases h
  · obtain ⟨-, ⟨r, hr, ht⟩ | ⟨i, hi, hexec⟩⟩ := deliver_cases hd
    · exact ⟨hl, .inr (.inl ⟨w, r, hm, hw, hr, ht⟩)⟩
    · exact ⟨hl, .inl ⟨i, hm, by rw [hw, decode_eq_ok_iff.1 hi], hexec⟩⟩
  · exact ⟨hl, .inr (.inr (.inl htimer))⟩
  · exact ⟨hl, .inr (.inr (.inr hnone))⟩

theorem cfg_eq_of_step {s t : State} (h : step s = .next t) : t.cfg = s.cfg := by
  obtain ⟨-, ⟨i, -, -, hexec⟩ | ⟨w, r, -, -, -, rfl⟩ | ⟨-, rfl⟩ | ⟨-, rfl⟩⟩ := step_cases_decoded h
  · exact (exec_keeps hexec).1
  · rfl
  · rw [tick_cfg, passTurn_cfg]
  · rfl

/-- Settles O20: commands keep the configuration, and so do a refusal, TICK and the bookkeeping of a step. -/
theorem configNeverChanges : Obligations.ConfigNeverChanges :=
  fun _ _ => cfg_eq_of_step

end Sys2Proof.Machine
end

section
/-! ## The invariant of a state, and its keeping by every operation (10_state.md R36, R40) -/

namespace Sys2Proof.Machine

namespace State.Inv

variable {s : State} (h : s.Inv)
include h

/-! ### What the invariant says of the period once initialised -/

theorem arrPre_bounds (hp : s.phase ≠ .uninitialized) : 1 ≤ s.arrPre ∧ s.arrPre ≤ maxPeriod s.cfg := by
  obtain ⟨f, hf, e⟩ := h.period_accepted hp
  rw [e]
  exact hf.2

/-! ### The records and the bookkeeping -/

theorem raiseFault (hl : s.Live) (k : FaultKind) (w : Word) : (raiseFault k w s).Inv :=
  { h with one_record := .inr hl.2 }

theorem refuseWord (hl : s.Live) (r : RefusalReason) (w : Word) : (refuseWord r w s).Inv :=
  { h with one_record := .inl hl.1 }

theorem passTurn : (passTurn s).Inv :=
  { h with }

theorem takeWord : (takeWord s).Inv :=
  { h with }

/-! ### The commits -/

theorem configure : (configure s).Inv := by
  obtain ⟨hcnt, hpre, hact, hcpre, hcact⟩ := h.fits
  have hdefault : FreqOK s.cfg s.cfg.defaultFreqHz := h.config.2.1
  exact
    { config := h.config
      fits := ⟨Nat.zero_le _, hdefault.2.2, hact, Bank.forall_all (Nat.zero_le _), hcact⟩
      period_accepted := fun _ => ⟨_, hdefault, rfl⟩
      enabled := fun _ => rfl
      active_pos := nofun
      one_record := h.one_record }

theorem writePeriod {f : Nat} (hf : FreqOK s.cfg f) : (writePeriod (period s.cfg f) s).Inv := by
  obtain ⟨hcnt, hpre, hact, hcpre, hcact⟩ := h.fits
  exact { h with
    fits := ⟨hcnt, hf.2.2, hact, hcpre, hcact⟩
    period_accepted := fun _ => ⟨f, hf, rfl⟩ }

theorem writeCompare (c : Channel) {d : Nat} (hd : DutyOK d) :
    (writeCompare c (compareValue s.arrPre d) s).Inv := by
  obtain ⟨hcnt, hpre, hact, hcpre, hcact⟩ := h.fits
  have hv : compareValue s.arrPre d ≤ maxPeriod s.cfg := (compareValue_le _ hd).trans hpre
  exact { h with fits := ⟨hcnt, hpre, hact, Bank.forall_set hcpre hv, hcact⟩ }

/-- An update event makes the preload period active, which is at least 1 once initialised. -/
theorem updateLatch : (updateLatch s).Inv := by
  obtain ⟨hcnt, hpre, hact, hcpre, hcact⟩ := h.fits
  exact { h with
    fits := ⟨hcnt, hpre, hpre, hcpre, hcpre⟩
    active_pos := fun hrun => (h.arrPre_bounds (fun hp => by cases hp.symm.trans hrun)).1 }

theorem writeCounter {n : Nat} (hn : n ≤ maxPeriod s.cfg) : (writeCounter n s).Inv :=
  { h with fits := ⟨hn, h.fits.2⟩ }

theorem forceUpdate : (forceUpdate s).Inv := by
  cases hpar : s.cfg.forcedUpdateResetsCounter with
  | false =>
    rw [forceUpdate_of_keep hpar]
    exact h.updateLatch
  | true =>
    rw [forceUpdate_of_reset hpar]
    exact h.updateLatch.writeCounter (Nat.zero_le _)

theorem start (hp : s.phase ≠ .uninitialized) : (writePhase .running (Machine.forceUpdate s)).Inv :=
  { h.forceUpdate with
    period_accepted := fun _ => h.forceUpdate.period_accepted (by simpa using hp)
    enabled := fun _ => h.forceUpdate.enabled (by simpa using hp)
    active_pos := fun _ => by simpa using (h.arrPre_bounds hp).1 }

/-- Counting up stops at the active period, which fits the width. -/
theorem tick : (tick s).Inv := by
  obtain hle | hlt := le_or_gt s.arrAct s.cnt
  · rw [tick_of_le hle]
    exact (h.writeCounter (Nat.zero_le _)).updateLatch
  · rw [tick_of_lt hlt]
    exact h.writeCounter (Nat.le_trans hlt h.fits.2.2.1)

theorem exec {i : Instr} {t : State} (hexec : Machine.exec i s = .next t) : t.Inv := by
  obtain ⟨hl, rfl | ⟨k, rfl⟩ | ⟨-, -, rfl⟩ | ⟨f, -, -, hf, rfl⟩ | ⟨b, d, c, -, -, hd, -, rfl⟩ | ⟨-, hp, rfl⟩⟩ :=
    exec_cases hexec
  · exact h
  · exact h.raiseFault hl k _
  · exact h.configure
  · exact h.writePeriod hf
  · exact h.writeCompare c hd
  · exact h.start hp

theorem step {t : State} (hstep : Machine.step s = .next t) : t.Inv := by
  obtain ⟨hl, ⟨i, -, -, hexec⟩ | ⟨w, r, -, -, -, rfl⟩ | ⟨-, rfl⟩ | ⟨-, rfl⟩⟩ := step_cases_decoded hstep
  · exact h.passTurn.takeWord.exec hexec
  · exact h.passTurn.takeWord.refuseWord hl r w
  · exact h.passTurn.tick
  · exact h.passTurn

end State.Inv

/-! ### Power-on and the reachable states -/

theorem inv_of_build? {c : Config} {d : Draws} {ws : List Word} {b : Bool} {ts : List Agent} {s : State}
    (built : State.build? c d ws b ts = some s) : s.Inv := by
  obtain ⟨hc, hd, rfl⟩ := build?_eq_some_iff.1 built
  exact
    { config := hc
      fits := hd
      period_accepted := fun hp => absurd rfl hp
      enabled := fun hp => absurd rfl hp
      active_pos := nofun
      one_record := .inl rfl }

theorem inv_of_reachable {s : State} (h : Reachable s) : s.Inv := by
  induction h with
  | powerOn c d stream goesOn turns s built => exact inv_of_build? built
  | step s t _ stepped ih => exact ih.step stepped

/-- Settles O53: a command's commit, a record, TICK and the bookkeeping each keep the invariant. -/
theorem stepKeepsInvariant : Obligations.StepKeepsInvariant :=
  fun _ _ h => h.step

/-- Settles O52: in phase 0 only the configuration and the widths are asked for, and `build?` checks both; the reset
state is the one built from the defaults and zero draws. -/
theorem invariantAtPowerOn : Obligations.InvariantAtPowerOn :=
  ⟨fun _ _ _ _ _ _ => inv_of_build?,
    inv_of_build? (build?_of_wellFormed (c := Config.defaults) (d := Draws.zero) (by decide) (by decide))⟩

/-- Settles O54: every reachable state meets the invariant, whose clauses these are. -/
theorem reachableInvariants : Obligations.ReachableInvariants := by
  intro s hs _
  have h := inv_of_reachable hs
  obtain ⟨hcnt, -, hact, hcpre, -⟩ := h.fits
  refine ⟨fun hp => ⟨h.arrPre_bounds hp, h.period_accepted hp, fun c => ?_⟩,
    fun hrun => ⟨⟨h.active_pos hrun, hact⟩, hcnt⟩⟩
  exact ⟨Bank.forall_iff_get.1 hcpre c, by rw [h.enabled hp, Bank.get_all]⟩

end Sys2Proof.Machine
end

section
/-! ## A stale compare value (10_state.md section 7 (d)) -/

namespace Sys2Proof.Machine

/-- The commands of section 7 (d): CH1 at full duty for the default period 9999, then a shorter period, 999. -/
def staleCompareStream : List Word :=
  [encode .init, encode (.setdc 0#8 1000#32), encode (.setfreq 1000#32), encode .start]

/-- The default machine with that stream and then no word. -/
def staleCompareStart : State :=
  { State.powerOn Config.defaults Draws.zero with stream := staleCompareStream, hostGoesOn := false }

theorem reachable_of_stateAfter {k : Nat} {s t : State} (hs : Reachable s) (h : stateAfter k s = some t) :
    Reachable t := by
  induction k generalizing s with
  | zero => exact Option.some.inj h ▸ hs
  | succ k ih =>
    unfold stateAfter at h
    split at h
    · next u hstep => exact ih (.step s u hs hstep) h
    · cases h
    · cases h

/-- Settles O55: SETFREQ rescales no compare value, so CH1 keeps the compare value 9999 of the longer period. -/
theorem staleCompareIsReachable : Obligations.StaleCompareIsReachable := by
  have start : Reachable staleCompareStart :=
    .powerOn Config.defaults Draws.zero staleCompareStream false [] _ (build?_of_wellFormed (by decide) (by decide))
  obtain ⟨t, ht, hl, hp, hlt⟩ : ∃ t, stateAfter 4 staleCompareStart = some t ∧ t.Live ∧ t.phase = .running ∧
      t.arrPre < t.ccrPre.get .ch1 := ⟨_, rfl, by decide, by decide, by decide⟩
  exact ⟨t, reachable_of_stateAfter start ht, hl, hp, hlt⟩

end Sys2Proof.Machine
end

section
/-! ## The words a run delivers (20_memory.md section 2) -/

namespace Sys2Proof.Machine

theorem deliversNext_of_host {s : State} (hm : s.mover = some .host) : s.deliversNext = s.nextWord :=
  if_pos hm

theorem deliversNext_of_not_host {s : State} (hm : s.mover ≠ some .host) : s.deliversNext = none :=
  if_neg hm

theorem deliversNext_of_timer {s : State} (hm : s.mover = some .timer) : s.deliversNext = none :=
  deliversNext_of_not_host (by simp [hm])

theorem deliversNext_of_none {s : State} (hm : s.mover = none) : s.deliversNext = none :=
  deliversNext_of_not_host (by simp [hm])

/-- A run of at least one step has a first step. -/
theorem exists_step_of_stateAfter_succ {k : Nat} {s t : State} (h : stateAfter (k + 1) s = some t) :
    ∃ u, step s = .next u ∧ stateAfter k u = some t := by
  unfold stateAfter at h
  split at h
  · next u hstep => exact ⟨u, hstep, h⟩
  · cases h
  · cases h

/-- A run that ends in a live state has passed through no other. -/
theorem live_of_stateAfter {k : Nat} {s t : State} (h : stateAfter k s = some t) (ht : t.Live) : s.Live := by
  cases k with
  | zero => exact Option.some.inj h ▸ ht
  | succ k =>
    obtain ⟨u, hstep, -⟩ := exists_step_of_stateAfter_succ h
    exact (step_cases hstep).1

/-- The host delivers its oldest settled word, or, where none is left and it goes on, a word that was not settled. -/
theorem deliversNext_append_tail {s : State} (hm : s.mover = some .host) :
    s.deliversNext.toList ++ s.stream.tail = s.stream ∨
      (s.hostGoesOn = true ∧ s.stream = [] ∧ s.stream.tail = []) := by
  rw [deliversNext_of_host hm]
  cases hs : s.stream with
  | cons w ws =>
    rw [nextWord_of_cons hs]
    exact .inl rfl
  | nil =>
    refine .inr ⟨?_, rfl, rfl⟩
    obtain ⟨⟨w, hw⟩, -⟩ := host_of_mover hm
    by_contra hended
    cases hw.symm.trans (nextWord_eq_none_iff.2 ⟨hs, Bool.eq_false_of_not_eq_true hended⟩)

theorem stream_of_step {s t : State} (h : step s = .next t) :
    t.hostGoesOn = s.hostGoesOn ∧
      (s.deliversNext.toList ++ t.stream = s.stream ∨
        (s.hostGoesOn = true ∧ s.stream = [] ∧ t.stream = [])) := by
  obtain ⟨-, ⟨i, hm, -, hexec⟩ | ⟨w, r, hm, -, -, rfl⟩ | ⟨hm, rfl⟩ | ⟨hm, rfl⟩⟩ := step_cases_decoded h
  · obtain ⟨-, -, hstream, hgo, -⟩ := exec_keeps hexec
    refine ⟨hgo, ?_⟩
    rw [hstream]
    exact deliversNext_append_tail hm
  · exact ⟨rfl, deliversNext_append_tail hm⟩
  · refine ⟨tick_hostGoesOn _, .inl ?_⟩
    rw [deliversNext_of_timer hm, tick_stream, passTurn_stream]
    rfl
  · refine ⟨rfl, .inl ?_⟩
    rw [deliversNext_of_none hm]
    rfl

/-- Settles O59: by induction on the steps; a first step that adds a word leaves no settled one, so nothing settled is
left at the end. -/
theorem deliveredInStreamOrder : Obligations.DeliveredInStreamOrder := by
  intro k
  induction k with
  | zero =>
    intro s t h
    obtain rfl : s = t := Option.some.inj h
    exact ⟨[], (List.append_nil _).symm, fun _ => rfl, fun _ => rfl⟩
  | succ k ih =>
    intro s t h
    obtain ⟨u, hstep, hrun⟩ := exists_step_of_stateAfter_succ h
    obtain ⟨ws, happ, hended, hleft⟩ := ih u t hrun
    obtain ⟨hgo, hkept | ⟨hgoes, hs, hu⟩⟩ := stream_of_step hstep <;>
      rw [delivered_succ hstep, List.append_assoc, happ]
    · refine ⟨ws, by rw [← List.append_assoc, hkept], fun hg => hended (hgo.trans hg), hleft⟩
    · rw [hu, List.nil_append] at happ ⊢
      refine ⟨s.deliversNext.toList ++ ws, by rw [hs, List.nil_append], fun hg => ?_, fun ht => ?_⟩
      · cases hgoes.symm.trans hg
      · rw [hleft ht] at happ
        exact absurd (List.append_eq_nil_iff.1 happ).2 ht

end Sys2Proof.Machine
end

section
/-! ## The frequency in force (10_state.md section 7 (a)) -/

namespace Sys2Proof.Machine

theorem oversizePeriod_arrPre (f : BitVec 32) (s : State) : (oversizePeriod f s).arrPre = s.arrPre := by
  obtain ⟨-, e⟩ | ⟨-, e⟩ := oversizePeriod_cases f s <;> rw [e]
  rw [raiseFault_arrPre]

theorem freqAfterWords_encode (c : Config) (f : Nat) (i : Instr) (ws : List Word) :
    freqAfterWords c f (encode i :: ws) = freqAfterWords c (freqAfter c f i) ws := by
  rw [freqAfterWords, decode_encode]

section OneStep

variable {s t : State} {f : Nat} (ht : t.Live) (hp : s.phase ≠ .uninitialized) (hf : s.arrPre = period s.cfg f)
include ht hp hf

/-- A command that does not fault leaves ARR_PRE at the period of the frequency it leaves in force. -/
theorem arrPre_of_exec {i : Instr} (h : exec i s = .next t) : t.arrPre = period s.cfg (freqAfter s.cfg f i) := by
  cases i with
  | init =>
    obtain ⟨-, ⟨-, rfl⟩ | ⟨-, rfl⟩⟩ := execInit_cases h
    · cases ht.1
    · rfl
  | setfreq g =>
    obtain ⟨-, ⟨hp0, -⟩ | ⟨-, hr, rfl⟩ | ⟨-, -, hok, rfl⟩ | ⟨-, hok, rfl⟩⟩ := execSetfreq_cases h
    · exact absurd hp0 hp
    · rw [freqAfter, if_neg fun hok => hr hok.1, hf]
    · rw [freqAfter, if_neg hok, oversizePeriod_arrPre, hf]
    · rw [freqAfter, if_pos hok, writePeriod_arrPre]
  | setdc b d =>
    obtain ⟨-, ⟨hp0, -⟩ | ⟨-, -, rfl⟩ | ⟨-, -, c, -, rfl⟩⟩ := execSetdc_cases h
    · exact absurd hp0 hp
    · exact hf
    · exact hf
  | start =>
    obtain ⟨-, ⟨hp0, -⟩ | ⟨-, rfl⟩⟩ := execStart_cases h
    · exact absurd hp0 hp
    · rw [writePhase_arrPre, forceUpdate_arrPre, hf]
      rfl

/-- A step that neither faults nor refuses leaves ARR_PRE at the period of a frequency `g`, and `g` is what the word it
delivered, if any, left in force. -/
theorem arrPre_of_step (h : step s = .next t) :
    ∃ g, t.arrPre = period s.cfg g ∧
      ∀ ws, freqAfterWords s.cfg f (s.deliversNext.toList ++ ws) = freqAfterWords s.cfg g ws := by
  obtain ⟨-, ⟨i, hm, hw, hexec⟩ | ⟨w, r, -, -, -, rfl⟩ | ⟨hm, rfl⟩ | ⟨hm, rfl⟩⟩ := step_cases_decoded h
  · refine ⟨freqAfter s.cfg f i, arrPre_of_exec (s := takeWord (passTurn s)) ht hp hf hexec, fun ws => ?_⟩
    rw [deliversNext_of_host hm, hw]
    exact freqAfterWords_encode s.cfg f i ws
  · cases ht.2
  · refine ⟨f, by rw [tick_arrPre, passTurn_arrPre, hf], fun ws => ?_⟩
    rw [deliversNext_of_timer hm]
    rfl
  · refine ⟨f, hf, fun ws => ?_⟩
    rw [deliversNext_of_none hm]
    rfl

end OneStep

/-- Settles O56: by induction on the steps, each leaving ARR_PRE at the period of the frequency in force after it. -/
theorem periodOfTheFrequencyInForce : Obligations.PeriodOfTheFrequencyInForce := by
  intro k
  induction k with
  | zero =>
    intro s t f _ hf h _
    obtain rfl : s = t := Option.some.inj h
    exact hf
  | succ k ih =>
    intro s t f hp hf h ht
    obtain ⟨u, hstep, hrun⟩ := exists_step_of_stateAfter_succ h
    obtain ⟨g, hg, hwords⟩ := arrPre_of_step (live_of_stateAfter hrun ht) hp hf hstep
    have hcfg := cfg_eq_of_step hstep
    rw [delivered_succ hstep, hwords, ← hcfg]
    exact ih u t g (phase_ne_uninitialized_of_step hstep hp) (hcfg ▸ hg) hrun ht

end Sys2Proof.Machine
end

section
/-! ## The frames of the commands and the phase state machine (10_state.md section 3, 40_timer_core.md) -/

namespace Sys2Proof.Machine

theorem configure_configure (s : State) : configure (configure s) = configure s :=
  rfl

/-- Settles O22: INIT's commit depends on the configuration alone, and leaves a live state of phase 1. -/
theorem initIsIdempotent : Obligations.InitIsIdempotent := by
  intro s t hp h
  obtain ⟨hl, ⟨hrun, -⟩ | ⟨-, rfl⟩⟩ := execInit_cases h
  · exact absurd hrun hp
  · rw [exec_init_of_not_running (s := configure s) hl (by simp), configure_configure]

/-- Settles O23: of INIT's two cases, the one in phase 2 writes FAULT only, the other all but FAULT. -/
theorem initFrame : Obligations.InitFrame := by
  intro s t h
  obtain ⟨hcfg, hrefused, hfields⟩ := exec_keeps h
  obtain ⟨hact, hcact⟩ := active_eq_of_exec_init h
  refine ⟨⟨hcfg, hact, hcact, hrefused, hfields⟩, fun hp => ?stopped, fun hp => ?running⟩ <;>
    obtain ⟨-, ⟨hrun, rfl⟩ | ⟨hstop, rfl⟩⟩ := execInit_cases h
  case stopped.inl => exact absurd hrun hp
  case stopped.inr => exact configure_fault s
  case running.inl => exact ⟨rfl, rfl, rfl, rfl, rfl⟩
  case running.inr => exact absurd hp hstop

/-- Settles O25: a fault record and the period are never written together. -/
theorem setfreqFrame : Obligations.SetfreqFrame := by
  intro s t f h
  have kept : t = s ∨ (∃ k w, t = raiseFault k w s) ∨ ∃ p, t = writePeriod p s := by
    obtain ⟨-, rfl | ⟨k, ht⟩ | ⟨hi, -⟩ | ⟨g, -, -, -, ht⟩ | ⟨_, _, _, hi, -⟩ | ⟨hi, -⟩⟩ := exec_cases h
    · exact .inl rfl
    · exact .inr (.inl ⟨k, _, ht⟩)
    · cases hi
    · exact .inr (.inr ⟨_, ht⟩)
    · cases hi
    · cases hi
  obtain rfl | ⟨k, w, rfl⟩ | ⟨p, rfl⟩ := kept
  · exact ⟨rfl, .inl rfl⟩
  · exact ⟨rfl, .inl rfl⟩
  · exact ⟨rfl, .inr rfl⟩

/-- Settles O27: SETDC's only commit is the write to the channel its identifier names. -/
theorem setdcFrame : Obligations.SetdcFrame := by
  intro s t b d h
  obtain ⟨-, ⟨-, rfl⟩ | ⟨-, -, rfl⟩ | ⟨-, -, c, hb, rfl⟩⟩ := execSetdc_cases h
  · exact ⟨rfl, fun _ _ => rfl⟩
  · exact ⟨rfl, fun _ _ => rfl⟩
  · exact ⟨rfl, fun e he => Bank.get_set_other _ _ fun hec => he (hec ▸ chanOf_eq_some_iff.1 hb)⟩

/-! ### START -/

theorem forceUpdate_cnt (s : State) :
    (forceUpdate s).cnt = if s.cfg.forcedUpdateResetsCounter then 0 else s.cnt := by
  unfold forceUpdate
  split <;> rfl

/-- Where nothing is pending, an update event writes the values that stand there. -/
theorem updateLatch_of_nothing_pending {s : State} (harr : s.arrPre = s.arrAct) (hccr : s.ccrPre = s.ccrAct) :
    updateLatch s = s := by
  cases s
  cases harr
  cases hccr
  rfl

theorem writePhase_self {s : State} {p : Phase} (hp : s.phase = p) : writePhase p s = s := by
  rw [writePhase, ← hp]

/-- Settles O29: the update event and the phase write leave what stands there already. -/
theorem startIsIdempotentWhenNothingPending : Obligations.StartIsIdempotentWhenNothingPending := by
  intro s hl hp harr hccr hkeep
  rw [exec_start_of_not_uninitialized hl (by simp [hp]), forceUpdate_of_keep hkeep,
    updateLatch_of_nothing_pending harr (Bank.ext_get hccr), writePhase_self hp]

/-- Settles O30: START's two cases, the fault record of phase 0 and the forced update past it. -/
theorem startFrame : Obligations.StartFrame := by
  intro s t h
  obtain ⟨hcfg, hrefused, hfields⟩ := exec_keeps h
  obtain ⟨-, ⟨hp, rfl⟩ | ⟨hp, rfl⟩⟩ := execStart_cases h
  · exact ⟨⟨hcfg, rfl, rfl, rfl, hrefused, hfields⟩, fun _ => rfl, fun hn => absurd hp hn,
      fun _ => ⟨rfl, rfl, rfl, rfl⟩⟩
  · refine ⟨⟨hcfg, forceUpdate_arrPre s, forceUpdate_ccrPre s, forceUpdate_cce s, hrefused, hfields⟩, fun hkeep => ?_,
      fun _ => forceUpdate_fault s, fun h0 => absurd h0 hp⟩
    rw [writePhase_cnt, forceUpdate_cnt, hkeep]
    rfl

/-! ### The phases -/

/-- Only INIT and START write PHASE. -/
theorem phase_eq_of_exec {i : Instr} {s t : State} (h : exec i s = .next t) (hinit : i ≠ .init) (hstart : i ≠ .start) :
    t.phase = s.phase := by
  obtain ⟨-, rfl | ⟨_, rfl⟩ | ⟨hi, -⟩ | ⟨_, -, -, -, rfl⟩ | ⟨_, _, _, -, -, -, -, rfl⟩ | ⟨hi, -⟩⟩ := exec_cases h
  · rfl
  · rfl
  · exact absurd hi hinit
  · rfl
  · rfl
  · exact absurd hi hstart

/-- Settles O32: INIT and START commit their phase where their phase check passes; nothing else writes PHASE. -/
theorem phaseStateMachine : Obligations.PhaseStateMachine := by
  intro i s t h
  cases i with
  | init =>
    obtain ⟨-, ⟨hp, rfl⟩ | ⟨hp, rfl⟩⟩ := execInit_cases h
    · rw [raiseFault_phase, hp]
    · rw [configure_phase]
      cases hq : s.phase with
      | uninitialized | initialized => rfl
      | running => exact absurd hq hp
  | setfreq _ | setdc _ _ =>
    rw [phase_eq_of_exec h nofun nofun]
    cases s.phase <;> rfl
  | start =>
    obtain ⟨-, ⟨hp, rfl⟩ | ⟨hp, rfl⟩⟩ := execStart_cases h
    · rw [raiseFault_phase, hp]
    · rw [writePhase_phase]
      cases hq : s.phase with
      | uninitialized => exact absurd hq hp
      | initialized | running => rfl

end Sys2Proof.Machine
end

section
/-! ## The recommended boot sequence (70_reset_and_hazards.md section 2) -/

namespace Sys2Proof.Machine

theorem execAll_cons {i : Instr} {is : List Instr} {s t : State} {o : Result} (h : exec i s = .next t)
    (hrest : execAll is t = o) : execAll (i :: is) s = o := by
  rw [execAll, h, ← hrest]

/-- `s` configured, with a period and the compare values of four duties of it preloaded. -/
def preloaded (p d1 d2 d3 d4 : Nat) (s : State) : State :=
  { configure s with
    arrPre := p
    ccrPre := ⟨compareValue p d1, compareValue p d2, compareValue p d3, compareValue p d4⟩ }

section Boot

variable {s : State} {f d1 d2 d3 d4 : BitVec 32} (hl : s.Live) (hp : s.phase ≠ .running) (hf : FreqOK s.cfg f.toNat)
  (h1 : DutyOK d1.toNat) (h2 : DutyOK d2.toNat) (h3 : DutyOK d3.toNat) (h4 : DutyOK d4.toNat)
include hl hp hf h1 h2 h3 h4

/-- Each command of the sequence finds the live state of phase 1 the one before it left, and commits. -/
theorem execAll_boot :
    execAll [.init, .setfreq f, .setdc 0#8 d1, .setdc 1#8 d2, .setdc 2#8 d3, .setdc 3#8 d4, .start] s =
      .next (writePhase .running
        (forceUpdate (preloaded (period s.cfg f.toNat) d1.toNat d2.toNat d3.toNat d4.toNat s))) := by
  refine execAll_cons (exec_init_of_not_running hl hp) ?_
  refine execAll_cons (exec_setfreq_of_ok (by exact hl) (by simp) hf) ?_
  refine execAll_cons (exec_setdc_of_ok (by exact hl) (by simp) (by rfl) h1) ?_
  refine execAll_cons (exec_setdc_of_ok (by exact hl) (by simp) (by rfl) h2) ?_
  refine execAll_cons (exec_setdc_of_ok (by exact hl) (by simp) (by rfl) h3) ?_
  refine execAll_cons (exec_setdc_of_ok (by exact hl) (by simp) (by rfl) h4) ?_
  exact execAll_cons (exec_start_of_not_uninitialized (by exact hl) (by simp)) rfl

end Boot

/-- Settles O31: the forced update of START makes the preloaded period and compare values active, and the counter is at
the 0 INIT has set whether or not the parameter sets it again. -/
theorem recommendedBootSequence : Obligations.RecommendedBootSequence := by
  intro s f d1 d2 d3 d4 hl hp hf h1 h2 h3 h4
  refine ⟨_, execAll_boot hl hp hf h1 h2 h3 h4, ⟨rfl, ?live⟩, ?cnt, ?arrAct, ?ccrAct, ?cce⟩
  case live => exact ⟨(forceUpdate_fault _).trans hl.1, (forceUpdate_refusedWord _).trans hl.2⟩
  case cnt =>
    rw [writePhase_cnt, forceUpdate_cnt]
    exact ite_self _
  case arrAct => exact forceUpdate_arrAct _
  case ccrAct => exact forceUpdate_ccrAct _
  case cce => exact forceUpdate_cce _

end Sys2Proof.Machine
end

section
/-! ## The one outcome of a delivered word (60_exceptions.md section 2) -/

namespace Sys2Proof.Machine

/-- The commands past their phase check that can be rejected or overflow are past phase 0. -/
theorem phase_ne_uninitialized_of_phaseFault {p : Phase} {i : Instr} (hk : phaseFault p i = none) (hi : i ≠ .init) :
    p ≠ .uninitialized := by
  rintro rfl
  cases i with
  | init => exact hi rfl
  | setfreq _ | setdc _ _ | start => cases hk

theorem ne_init_of_rejected {c : Config} {i : Instr} (h : Rejected c i) : i ≠ .init := by
  rintro rfl
  exact h

theorem ne_init_of_overflows {c : Config} {i : Instr} (h : Overflows c i) : i ≠ .init := by
  rintro rfl
  exact h

section Outcomes

variable {s : State} {i : Instr} (hl : s.Live)
include hl

theorem exec_of_phaseFault {k : FaultKind} (hk : phaseFault s.phase i = some k) :
    exec i s = .next (raiseFault k (encode i) s) := by
  cases i with
  | init =>
    obtain ⟨hp, rfl⟩ : s.phase = .running ∧ .initWhileRunning = k := by simpa [phaseFault] using hk
    exact exec_init_of_running hl hp
  | setfreq _ | setdc _ _ | start =>
    obtain ⟨hp, rfl⟩ : s.phase = .uninitialized ∧ .useBeforeInit = k := by simpa [phaseFault] using hk
    exact exec_of_uninitialized hl hp nofun

/-- A command that meets no fault condition answers a live state. -/
theorem exec_live (hk : phaseFault s.phase i = none) (ho : ¬ Overflows s.cfg i) : ∃ t, exec i s = .next t ∧ t.Live := by
  obtain ⟨t, h⟩ := exec_not_stopped hl i
  obtain ⟨-, hrefused, -⟩ := exec_keeps h
  refine ⟨t, h, by_contra fun hf => ?_, hrefused.trans hl.2⟩
  obtain ⟨hp, hi⟩ | ⟨hp, rfl⟩ | ⟨-, hover⟩ := faultCondition_of_exec h hf
  · exact phase_ne_uninitialized_of_phaseFault hk hi hp
  · rw [hp] at hk
    cases hk
  · exact ho hover

end Outcomes

/-- Settles O36: a delivered word is refused or run, and the command's phase fault, rejection, overflow and commit each
have their lemma. -/
theorem oneOutcomePerWord : Obligations.OneOutcomePerWord := by
  refine fun w s hl => ⟨fun r hr => deliver_of_error hl hr, fun i hi => ?_⟩
  rw [deliver_of_ok hl hi, decode_eq_ok_iff.1 hi]
  refine ⟨fun k hk => ?phaseFault, fun hk hr => ?rejected, fun hk ho => ?overflow, fun hk _ ho => ?commit⟩
  case phaseFault => exact exec_of_phaseFault hl hk
  case rejected =>
    exact exec_of_rejected hl (phase_ne_uninitialized_of_phaseFault hk (ne_init_of_rejected hr)) hr
  case overflow =>
    exact exec_of_overflows hl (phase_ne_uninitialized_of_phaseFault hk (ne_init_of_overflows ho)) ho
  case commit => exact exec_live hl hk ho

end Sys2Proof.Machine
end

section
/-! ## Who writes each element (10_state.md section 2) -/

namespace Sys2Proof.Machine

section Writers

variable {s t : State} {i : Instr}

/-! ### The commands: by the frame of each, all but the writers of an element keep it -/

theorem active_cases_of_exec (h : exec i s = .next t) :
    (t.arrAct = s.arrAct ∧ t.ccrAct = s.ccrAct) ∨
      (i = .start ∧ s.phase ≠ .uninitialized ∧ t.arrAct = s.arrPre ∧ t.ccrAct = s.ccrPre) := by
  cases i with
  | init => exact .inl (active_eq_of_exec_init h)
  | setfreq f =>
    have e := (setfreqFrame s t f h).1
    exact .inl ⟨by rw [e], by rw [e]⟩
  | setdc b d =>
    have e := (setdcFrame s t b d h).1
    exact .inl ⟨by rw [e], by rw [e]⟩
  | start =>
    obtain ⟨-, ⟨-, rfl⟩ | ⟨hp, rfl⟩⟩ := execStart_cases h
    · exact .inl ⟨rfl, rfl⟩
    · exact .inr ⟨rfl, hp, forceUpdate_arrAct s, forceUpdate_ccrAct s⟩

theorem writer_of_arrPre (h : exec i s = .next t) (hne : t.arrPre ≠ s.arrPre) : i = .init ∨ ∃ f, i = .setfreq f := by
  cases i with
  | init => exact .inl rfl
  | setfreq f => exact .inr ⟨f, rfl⟩
  | setdc b d => exact absurd (congrArg State.arrPre (setdcFrame s t b d h).1) hne
  | start =>
    obtain ⟨⟨-, hkept, -⟩, -⟩ := startFrame s t h
    exact absurd hkept hne

theorem writer_of_ccrPre {c : Channel} (h : exec i s = .next t) (hne : t.ccrPre.get c ≠ s.ccrPre.get c) :
    i = .init ∨ ∃ b d, i = .setdc b d ∧ b.toNat = chanOffset c := by
  cases i with
  | init => exact .inl rfl
  | setfreq f => exact absurd (congrArg (fun u : State => u.ccrPre.get c) (setfreqFrame s t f h).1) hne
  | setdc b d => exact .inr ⟨b, d, rfl, by_contra fun hb => hne ((setdcFrame s t b d h).2 c hb)⟩
  | start =>
    obtain ⟨⟨-, -, hkept, -⟩, -⟩ := startFrame s t h
    exact absurd (congrArg (Bank.get · c) hkept) hne

theorem writer_of_cce (h : exec i s = .next t) (hne : t.cce ≠ s.cce) : i = .init := by
  cases i with
  | init => rfl
  | setfreq f => exact absurd (congrArg State.cce (setfreqFrame s t f h).1) hne
  | setdc b d => exact absurd (congrArg State.cce (setdcFrame s t b d h).1) hne
  | start =>
    obtain ⟨⟨-, -, -, hkept, -⟩, -⟩ := startFrame s t h
    exact absurd hkept hne

theorem writer_of_cnt (h : exec i s = .next t) (hne : t.cnt ≠ s.cnt) :
    i = .init ∨ (i = .start ∧ s.cfg.forcedUpdateResetsCounter = true) := by
  cases i with
  | init => exact .inl rfl
  | setfreq f => exact absurd (congrArg State.cnt (setfreqFrame s t f h).1) hne
  | setdc b d => exact absurd (congrArg State.cnt (setdcFrame s t b d h).1) hne
  | start =>
    obtain ⟨-, hkeep, -⟩ := startFrame s t h
    exact .inr ⟨rfl, Bool.eq_true_of_not_eq_false fun hpar => hne (hkeep hpar)⟩

/-! ### The steps -/

/-- A step that changes an element only commands write is the host's, and its command changes that element. -/
theorem exec_of_step_changes {α : Type} {e : State → α} (h : step s = .next t) (hne : e t ≠ e s)
    (htick : s.mover = some .timer → e (tick (passTurn s)) = e s)
    (hpass : ∀ u, e (passTurn u) = e u := by exact fun _ => rfl)
    (htake : ∀ u, e (takeWord u) = e u := by exact fun _ => rfl)
    (hrefuse : ∀ r w u, e (refuseWord r w u) = e u := by exact fun _ _ _ => rfl) :
    ∃ i, s.mover = some .host ∧ s.nextWord = some (encode i) ∧
      exec i (takeWord (passTurn s)) = .next t ∧ e t ≠ e (takeWord (passTurn s)) := by
  obtain ⟨-, ⟨i, hm, hw, hexec⟩ | ⟨w, r, -, -, -, rfl⟩ | ⟨hm, rfl⟩ | ⟨-, rfl⟩⟩ := step_cases_decoded h
  · exact ⟨i, hm, hw, hexec, by rwa [htake, hpass]⟩
  · exact absurd (by rw [hrefuse, htake, hpass]) hne
  · exact absurd (htick hm) hne
  · exact absurd (hpass s) hne

end Writers

/-- Settles O50: of the commands only START latches; TICK latches only where it wraps. -/
theorem onlyUpdateEventsWriteActive : Obligations.OnlyUpdateEventsWriteActive := by
  intro s t h hne
  obtain ⟨-, ⟨i, hm, hw, hexec⟩ | ⟨w, r, -, -, -, rfl⟩ | ⟨hm, rfl⟩ | ⟨-, rfl⟩⟩ := step_cases_decoded h
  · obtain ⟨harr, hccr⟩ | ⟨rfl, hp, hact⟩ := active_cases_of_exec hexec
    · exact hne.elim (absurd harr) (absurd hccr)
    · exact ⟨.inr ⟨hm, hp, hw⟩, hact⟩
  · simp at hne
  · obtain hle | hlt := le_or_gt s.arrAct s.cnt
    · obtain ⟨-, hact⟩ := tick_wraps_of_le (s := passTurn s) hle
      exact ⟨.inl ⟨hm, hle⟩, hact⟩
    · rw [tick_of_lt (s := passTurn s) hlt] at hne
      simp at hne
  · simp at hne

/-- Settles O51: no refusal, bookkeeping or TICK writes these elements, but for TICK the counter; so the step's command
does, and each element's writers are its lemma's. -/
theorem writersOfEachElement : Obligations.WritersOfEachElement := by
  intro s t h
  refine ⟨fun hne => ?arrPre, fun c hne => ?ccrPre, fun hne => ?cce, fun hne => ?cnt⟩
  case arrPre =>
    obtain ⟨i, hm, hw, hexec, hne⟩ := exec_of_step_changes (e := State.arrPre) h hne fun _ => tick_arrPre _
    exact ⟨i, hm, hw, writer_of_arrPre hexec hne⟩
  case ccrPre =>
    obtain ⟨i, hm, hw, hexec, hne⟩ :=
      exec_of_step_changes (e := fun u => u.ccrPre.get c) h hne fun _ => by rw [tick_ccrPre, passTurn_ccrPre]
    exact ⟨i, hm, hw, writer_of_ccrPre hexec hne⟩
  case cce =>
    obtain ⟨i, hm, hw, hexec, hne⟩ := exec_of_step_changes (e := State.cce) h hne fun _ => tick_cce _
    exact ⟨hm, writer_of_cce hexec hne ▸ hw⟩
  case cnt =>
    by_cases hm : s.mover = some .timer
    · exact .inl hm
    · obtain ⟨i, hhost, hw, hexec, hne⟩ :=
        exec_of_step_changes (e := State.cnt) h hne fun htimer => absurd htimer hm
      exact .inr ⟨i, hhost, hw, writer_of_cnt (s := takeWord (passTurn s)) hexec hne⟩

end Sys2Proof.Machine
end

section
/-! ## Who steps, and on which word (20_memory.md section 2) -/

namespace Sys2Proof.Machine

/-- A step of the host with a word of the table runs its command. -/
theorem step_of_host_ok {s : State} {w : Word} {i : Instr} (hm : s.mover = some .host) (hw : s.nextWord = some w)
    (hi : decode w = .ok i) : step s = exec i (takeWord (passTurn s)) := by
  rw [step_of_host hm hw, deliver_of_ok (s := takeWord (passTurn s)) (host_of_mover hm).2 hi]

theorem step_of_host_error {s : State} {w : Word} {r : RefusalReason} (hm : s.mover = some .host)
    (hw : s.nextWord = some w) (hr : decode w = .error r) :
    step s = .next (refuseWord r w (takeWord (passTurn s))) := by
  rw [step_of_host hm hw, deliver_of_error (s := takeWord (passTurn s)) (host_of_mover hm).2 hr]

theorem turn_of_cons {s : State} {a : Agent} {ts : List Agent} (h : s.turns = a :: ts) : s.turn = a := by
  rw [State.turn, h]

/-- A settled turn of the host is taken wherever the host can deliver a word. -/
theorem mover_of_host_turn {s : State} {ts : List Agent} (hw : s.nextWord ≠ none) (hl : s.Live)
    (ht : s.turns = .host :: ts) : s.mover = some .host := by
  by_cases hp : s.phase = .running
  · rw [mover_of_both hw ⟨hp, hl⟩, turn_of_cons ht]
  · exact mover_of_host_only hw hl hp

/-! ### A word placed as the host's next -/

theorem decodeTableWord_eq_some_iff {nbits w : Nat} {i : Instr} :
    decodeTableWord nbits w = some i ↔ decode (tableWord nbits w) = .ok i := by
  unfold decodeTableWord
  cases decode (tableWord nbits w) <;> simp

section Placed

variable (s : State) (nbits w : Nat)

theorem nextWord_withFetchWord : (s.withFetchWord nbits w).nextWord = some (tableWord nbits w) :=
  nextWord_of_cons rfl

theorem mover_withFetchWord (hl : s.Live) : (s.withFetchWord nbits w).mover = some .host :=
  mover_of_host_turn (s := s.withFetchWord nbits w) nofun hl rfl

/-- Delivering the placed word takes it and its turn away again. -/
theorem takeWord_passTurn_withFetchWord :
    takeWord (passTurn (s.withFetchWord nbits w)) = { s with draw := s.draw + 1 } :=
  rfl

end Placed

/-- Settles O38: `step_of_host_ok`, with the bookkeeping of the step written out. -/
theorem stepRunsTheDecodedCommand : Obligations.StepRunsTheDecodedCommand :=
  fun _ _ _ => step_of_host_ok

/-- Settles O39: a step is determined by who takes it and by what the decoder says of the word. -/
theorem stepRefusesTicksOrWaits : Obligations.StepRefusesTicksOrWaits :=
  ⟨fun _ _ _ => step_of_host_error, fun _ => step_of_timer, fun _ => step_of_none⟩

/-- Settles O40: the mover where both agents, one of them or neither can step. -/
theorem eitherAgentMayStepNext : Obligations.EitherAgentMayStepNext := by
  refine ⟨fun s a ts ht hw hturns => ?both, fun s ts hp hf hr => ?timerTurn, fun s ht hw => ?timerOnly,
    fun s hl hp hw => ?hostOnly, fun s hp hw => ?neither, fun s w ws => ?settled, fun s => nextWord_eq_none_iff⟩
  case both => rw [mover_of_both hw ht, turn_of_cons hturns]
  case timerTurn => exact mover_of_timer_turn ⟨hp, hf, hr⟩
  case timerOnly => exact mover_of_timer_only hw ht
  case hostOnly => exact mover_of_host_only hw hl hp
  case neither => exact mover_of_neither (.inl hw) fun ht => hp ht.1
  case settled => exact nextWord_of_cons

/-- Settles O41: the placed word is the next one and the turn is the host's, whatever stood there before. -/
theorem placedWordRunsNext : Obligations.PlacedWordRunsNext := by
  intro s nbits w i hl hi
  rw [step_of_host_ok (mover_withFetchWord s nbits w hl) (nextWord_withFetchWord s nbits w)
    (decodeTableWord_eq_some_iff.1 hi), takeWord_passTurn_withFetchWord]

/-- Settles O58: the output function asks for PHASE = 2 only, and reads neither record. -/
theorem outputFunctionAfterAFault : Obligations.OutputFunctionAfterAFault :=
  fun _ c _ hp => out_eq_true_iff hp c

end Sys2Proof.Machine
end

section
/-! ## The element indices (10_state.md section 3) -/

namespace Sys2Proof.Machine

theorem elemOf_index (e : Elem) : elemOf e.index = some e := by
  cases e with
  | ccrPre c | ccrAct c => cases c <;> rfl
  | _ => rfl

theorem index_of_elemOf {n : Nat} {e : Elem} (h : elemOf n = some e) : e.index = n := by
  unfold elemOf at h
  split at h <;> cases h <;> rfl

theorem index_lt (e : Elem) : e.index < 16 := by
  cases e with
  | ccrPre c | ccrAct c => cases c <;> decide
  | _ => decide

/-- Settles O19: the table of indices is read in both directions, and every index below 16 stands in it. -/
theorem elementIndicesAreNames : Obligations.ElementIndicesAreNames := by
  refine ⟨elemOf_index, fun n e => index_of_elemOf, fun n => ⟨fun hn => ?_, fun h => ?_⟩⟩
  · revert n
    decide
  · obtain ⟨e, he⟩ := Option.isSome_iff_exists.1 h
    exact index_of_elemOf he ▸ index_lt e

end Sys2Proof.Machine
end

section
/-! ## Accepted frequencies, compare values and the achieved frequency (40_timer_core.md R105, 41_channel_driver.md
R131, 45_counter_and_outputs.md R157) -/

namespace Sys2Proof.Machine

/-- Settles O12: of the frequencies in range, those up to 15 have a period above 65535, and the others, up to 100000,
have one of at least 9. -/
theorem defaultAcceptedFrequencies : Obligations.DefaultAcceptedFrequencies := by
  intro f
  have hmax : Config.defaults.maxFreqHz = 100000 := rfl
  have hrate : Config.defaults.tickRateHz = 1000000 := rfl
  have hperiod : maxPeriod Config.defaults = 65535 := rfl
  have fits (hf : 1 ≤ f) : period Config.defaults f ≤ maxPeriod Config.defaults ↔ 16 ≤ f := by
    have hquot : 1000000 / f < 65537 ↔ 1000000 < 65537 * f := Nat.div_lt_iff_lt_mul hf
    rw [period, hrate, hperiod]
    omega
  constructor
  · rintro ⟨⟨hpos, hle⟩, -, hfit⟩
    exact ⟨(fits hpos).1 hfit, hle⟩
  · rintro ⟨hge, hle⟩
    have hpos : 1 ≤ f := by omega
    exact ⟨⟨hpos, hle⟩, (one_le_period_iff hpos).2 (by omega), (fits hpos).2 hge⟩

theorem compareValue_zero (p : Nat) : compareValue p 0 = 0 :=
  Nat.zero_div _

theorem compareValue_full (p : Nat) : compareValue p 1000 = p :=
  Nat.mul_div_cancel p (by decide)

theorem compareValue_mono (p : Nat) {d e : Nat} (h : d ≤ e) : compareValue p d ≤ compareValue p e :=
  Nat.div_le_div_right (Nat.mul_le_mul_left p h)

/-- Settles O14: the scaled duty is at most the whole period, and scaling and truncating keep the order. -/
theorem compareBoundAndMonotone : Obligations.CompareBoundAndMonotone :=
  ⟨fun p _ => compareValue_le p, fun p => ⟨compareValue_zero p, compareValue_full p⟩, fun p _ _ => compareValue_mono p⟩

/-- Settles O15: the two products add up to 1000 periods, so the quotients miss the period by the carry of their
remainders. -/
theorem complementaryPairSum : Obligations.ComplementaryPairSum := by
  intro p d hd
  have hsum : p * d + p * (1000 - d) = p * 1000 := by
    rw [← Nat.mul_add, Nat.add_sub_cancel' hd]
  simp only [compareValue, perMilleFull]
  split_ifs <;> omega

/-- The period and its tick 0 are the whole number of ticks of a cycle. -/
theorem period_add_one {c : Config} {f : Nat} (hp : 1 ≤ period c f) : period c f + 1 = c.tickRateHz / f := by
  unfold period at hp ⊢
  omega

/-- Settles O16: a cycle of `T / f` ticks, truncated, is at most `T / f` ticks, and exactly that where `f` divides the
tick rate `T`. -/
theorem achievedFrequency : Obligations.AchievedFrequency := by
  intro c f _ hf
  have hcycle := period_add_one hf.2.1
  have hpos : (0 : Rat) < (period c f : Rat) + 1 := by positivity
  have hcast : (f : Rat) * ((period c f : Rat) + 1) = ((f * (c.tickRateHz / f) : Nat) : Rat) := by
    rw [← hcycle]
    push_cast
    rfl
  rw [achievedHz, le_div_iff₀ hpos, div_eq_iff hpos.ne', hcast, Nat.cast_le, Nat.cast_inj]
  refine ⟨Nat.mul_div_le _ _, ?_⟩
  rw [eq_comm, Nat.mul_div_eq_iff_dvd]

end Sys2Proof.Machine
end

section
/-! ## Literals of the assembler (30_encoding.md R82) -/

namespace Sys2Proof.Machine

theorem assembleLiteral_of_fits {n : Nat} (h : n < 2 ^ 32) : assembleLiteral n = some (BitVec.ofNat 32 n) :=
  if_pos (Nat.le_pred_of_lt h)

theorem assembleLiteral_of_not_fits {n : Nat} (h : 2 ^ 32 ≤ n) : assembleLiteral n = none :=
  if_neg (by unfold LiteralFits; omega)

theorem assembleChan_hash_of_fits {n : Nat} (h : n < 256) : assembleChan (.hash n) = some (BitVec.ofNat 8 n) :=
  if_pos (Nat.le_pred_of_lt h)

theorem assembleChan_hash_of_not_fits {n : Nat} (h : 256 ≤ n) : assembleChan (.hash n) = none :=
  if_neg (by unfold ChanLiteralFits; omega)

/-- Settles O9: an operand is read whole or not at all. -/
theorem assemblerNeverTruncates : Obligations.AssemblerNeverTruncates := by
  refine ⟨fun f hf => ?freqOut, fun c d hd => ?dutyOut, fun n d hn => ?chanOut, fun f hf => ?freqIn,
    fun n d hn hd => ?setdcIn⟩
  case freqOut => rw [assembleLine, assembleLiteral_of_not_fits hf]
  case dutyOut =>
    rw [assembleLine, assembleLiteral_of_not_fits hd]
    cases assembleChan c <;> rfl
  case chanOut => rw [assembleLine, assembleChan_hash_of_not_fits hn]
  case freqIn =>
    refine ⟨_, by rw [assembleLine, assembleLiteral_of_fits hf], ?_⟩
    exact Nat.mod_eq_of_lt hf
  case setdcIn =>
    refine ⟨_, _, by rw [assembleLine, assembleChan_hash_of_fits hn, assembleLiteral_of_fits hd], ?_, ?_⟩
    · exact Nat.mod_eq_of_lt hn
    · exact Nat.mod_eq_of_lt hd

end Sys2Proof.Machine
end

section
/-! ## Runs put together, and one step while the timer runs (45_counter_and_outputs.md R151 to R160) -/

namespace Sys2Proof.Machine

theorem stateAfter_one {s t : State} (h : step s = .next t) : stateAfter 1 s = some t :=
  stateAfter_succ h 0

theorem stateAfter_add {s t : State} {k : Nat} (h : stateAfter k s = some t) (m : Nat) :
    stateAfter (k + m) s = stateAfter m t := by
  induction k generalizing s with
  | zero => rw [Nat.zero_add, Option.some.inj h]
  | succ k ih =>
    obtain ⟨u, hstep, hrun⟩ := exists_step_of_stateAfter_succ h
    rw [Nat.add_right_comm, stateAfter_succ hstep, ih hrun]

theorem delivered_add {s t : State} {k : Nat} (h : stateAfter k s = some t) (m : Nat) :
    delivered (k + m) s = delivered k s ++ delivered m t := by
  induction k generalizing s with
  | zero =>
    rw [Nat.zero_add, Option.some.inj h]
    rfl
  | succ k ih =>
    obtain ⟨u, hstep, hrun⟩ := exists_step_of_stateAfter_succ h
    rw [Nat.add_right_comm, delivered_succ hstep, delivered_succ hstep, ih hrun, List.append_assoc]

theorem waveform_of_not_live {s : State} (hn : ¬ s.Live) (k : Nat) : waveform k s = [] := by
  cases k with
  | zero => rfl
  | succ k =>
    obtain ⟨r, hr⟩ : ∃ r, step s = .fault r := ifLive_of_not_live hn _
    simp only [waveform, hr]

/-- Running does not end by a step. -/
theorem running_of_step {s t : State} (h : step s = .next t) (hp : s.phase = .running) : t.phase = .running := by
  have hle := phaseCode_le_of_step h
  rw [hp] at hle
  cases ht : t.phase with
  | running => rfl
  | uninitialized | initialized =>
    rw [ht] at hle
    exact absurd hle (by decide)

/-- While TICK is enabled, a step that delivers no word is a TICK. -/
theorem mover_of_delivers_nothing {s : State} (ht : s.TickEnabled) (hd : s.deliversNext = none) :
    s.mover = some .timer := by
  by_cases hw : s.nextWord = none
  · exact mover_of_timer_only hw ht
  · have hm := mover_of_both hw ht
    cases hturn : s.turn with
    | timer => rw [hm, hturn]
    | host =>
      rw [hturn] at hm
      exact absurd ((deliversNext_of_host hm).symm.trans hd) hw

/-- Only TICK and START, while the timer runs, write the counter or the active registers. -/
theorem cycle_kept_of_step {s t : State} (h : step s = .next t) (hp : s.phase = .running)
    (hm : s.mover ≠ some .timer) (hw : s.deliversNext ≠ some (encode .start)) :
    t.cnt = s.cnt ∧ t.arrAct = s.arrAct ∧ t.ccrAct = s.ccrAct := by
  obtain ⟨-, ⟨i, hhost, hword, hexec⟩ | ⟨w, r, -, -, -, rfl⟩ | ⟨htimer, -⟩ | ⟨-, rfl⟩⟩ := step_cases_decoded h
  · obtain ⟨-, rfl | ⟨_, rfl⟩ | ⟨-, hstop, -⟩ | ⟨_, -, -, -, rfl⟩ | ⟨_, _, _, -, -, -, -, rfl⟩ | ⟨rfl, -⟩⟩ :=
      exec_cases hexec
    · exact ⟨rfl, rfl, rfl⟩
    · exact ⟨rfl, rfl, rfl⟩
    · exact absurd hp hstop
    · exact ⟨rfl, rfl, rfl⟩
    · exact ⟨rfl, rfl, rfl⟩
    · exact absurd ((deliversNext_of_host hhost).trans hword) hw
  · exact ⟨rfl, rfl, rfl⟩
  · exact absurd htimer hm
  · exact ⟨rfl, rfl, rfl⟩

/-- A step of the timer below the active period. -/
theorem step_of_timer_lt {s : State} (hm : s.mover = some .timer) (hlt : s.cnt < s.arrAct) :
    step s = .next (writeCounter (s.cnt + 1) (passTurn s)) := by
  rw [step_of_timer hm, tick_of_lt (s := passTurn s) hlt, passTurn_cnt]

theorem eq_of_timer_step_lt {s t : State} (h : step s = .next t) (hm : s.mover = some .timer)
    (hlt : s.cnt < s.arrAct) : t = writeCounter (s.cnt + 1) (passTurn s) :=
  Host.Outcome.next.inj (h.symm.trans (step_of_timer_lt hm hlt))

/-- A step of the timer at the end of the cycle. -/
theorem step_of_timer_le {s : State} (hm : s.mover = some .timer) (hle : s.arrAct ≤ s.cnt) :
    ∃ t, step s = .next t ∧ t.cnt = 0 ∧ t.arrAct = s.arrPre ∧ t.ccrAct = s.ccrPre :=
  ⟨_, step_of_timer hm, tick_wraps_of_le (s := passTurn s) hle⟩

end Sys2Proof.Machine
end

section
/-! ## One cycle with no command in it (45_counter_and_outputs.md, the cycle length and the duty fraction) -/

namespace Sys2Proof.Machine

/-- `s` after `k` TICKs that do not wrap. -/
def State.counted (k : Nat) (s : State) : State :=
  { s with cnt := s.cnt + k, turns := s.turns.drop k, draw := s.draw + k }

theorem writeCounter_passTurn_counted (k : Nat) (s : State) :
    writeCounter ((s.counted k).cnt + 1) (passTurn (s.counted k)) = s.counted (k + 1) := by
  simp [State.counted, writeCounter, passTurn, Nat.add_assoc]

/-- Within a run that delivers no word, the next step of a state with TICK enabled is a TICK. -/
theorem mover_within_silent_run {s t : State} {k n : Nat} (hd : delivered n s = []) (hk : k < n)
    (hrun : stateAfter k s = some t) (ht : t.TickEnabled) : t.mover = some .timer := by
  obtain ⟨u, hstep⟩ := step_not_stopped ht.2
  obtain ⟨m, rfl⟩ := Nat.exists_eq_add_of_lt hk
  rw [Nat.add_assoc, delivered_add hrun, delivered_succ hstep] at hd
  have hnone := List.append_eq_nil_iff.1 (List.append_eq_nil_iff.1 hd).2
  exact mover_of_delivers_nothing ht (Option.toList_eq_nil_iff.1 hnone.1)

section Silent

variable {s : State} {n : Nat} (ht : s.TickEnabled) (hd : delivered n s = [])
include ht hd

theorem stateAfter_counted {k : Nat} (hk : k ≤ n) (hcnt : s.cnt + k ≤ s.arrAct) :
    stateAfter k s = some (s.counted k) := by
  induction k with
  | zero => rfl
  | succ k ih =>
    have hrun := ih (by omega) (by omega)
    have hm : (s.counted k).mover = some .timer := mover_within_silent_run hd hk hrun ht
    rw [stateAfter_add hrun, stateAfter_one (step_of_timer_lt hm hcnt), writeCounter_passTurn_counted]

end Silent

/-- Settles O46: without a word every step is a TICK, which counts up to ARR_ACT and then wraps. -/
theorem cycleLength : Obligations.CycleLength := by
  intro s ht h0 hd
  have hrun (k : Nat) (hk : k ≤ s.arrAct) : stateAfter k s = some (s.counted k) :=
    stateAfter_counted ht hd (by omega) (by omega)
  have hcnt (k : Nat) : (s.counted k).cnt = k := by rw [State.counted, h0, Nat.zero_add]
  refine ⟨fun k hk => ⟨s.counted k, hrun k hk, hcnt k, rfl, rfl⟩, ?_⟩
  have hlast := hrun s.arrAct le_rfl
  have hm := mover_within_silent_run hd (Nat.lt_succ_self _) hlast ht
  obtain ⟨t, hstep, hwrap⟩ := step_of_timer_le hm (hcnt s.arrAct).ge
  exact ⟨t, by rw [stateAfter_add hlast, stateAfter_one hstep], hwrap⟩

theorem countP_range_lt (c n : Nat) : (List.range n).countP (fun k => decide (k < c)) = min c n := by
  induction n with
  | zero => exact (Nat.min_zero c).symm
  | succ n ih =>
    rw [List.range_succ, List.countP_append, ih, List.countP_singleton]
    simp only [decide_eq_true_eq]
    split_ifs <;> omega

/-- Settles O47: in the state of counter `k` the output compares `k` with CCR_ACT. -/
theorem dutyFraction : Obligations.DutyFraction := by
  intro s c ht h0 hcce hd
  have hrun (k : Nat) (hk : k ≤ s.arrAct) : stateAfter k s = some (s.counted k) :=
    stateAfter_counted ht hd (by omega) (by omega)
  have hout (k : Nat) : (s.counted k).out c = decide (k < s.ccrAct.get c) := by
    rw [out_of_running (s := s.counted k) ht.1]
    simp [State.counted, hcce, h0]
  refine ⟨fun k hk => ⟨_, hrun k hk, by rw [hout, decide_eq_true_iff]⟩, ?_⟩
  rw [← countP_range_lt]
  refine List.countP_congr fun k hk => ?_
  rw [hrun k (Nat.le_of_lt_succ (List.mem_range.1 hk)), Option.map_some, Option.getD_some, hout]

end Sys2Proof.Machine
end

section
/-! ## The preload registers until the cycle boundary (70_reset_and_hazards.md, preload latency) -/

namespace Sys2Proof.Machine

section NoStart

variable {s t : State} {k : Nat} (h : step s = .next t) (hw : ∀ w ∈ delivered (k + 1) s, w ≠ encode .start)
include h hw

theorem deliversNext_ne_start : s.deliversNext ≠ some (encode .start) := by
  intro hs
  rw [delivered_succ h, hs] at hw
  exact hw _ List.mem_cons_self rfl

theorem delivered_ne_start_of_step : ∀ w ∈ delivered k t, w ≠ encode .start := by
  rw [delivered_succ h] at hw
  exact fun w hmem => hw w (List.mem_append_right _ hmem)

end NoStart

/-- Until the cycle ends, a run that delivers no START only counts its TICKs. -/
theorem cycle_of_stateAfter {k : Nat} {s t : State} (hp : s.phase = .running)
    (hw : ∀ w ∈ delivered k s, w ≠ encode .start) (hrun : stateAfter k s = some t)
    (hn : (waveform k s).length ≤ s.arrAct - s.cnt) :
    t.cnt = s.cnt + (waveform k s).length ∧ t.arrAct = s.arrAct ∧ t.ccrAct = s.ccrAct := by
  induction k generalizing s with
  | zero =>
    obtain rfl : s = t := Option.some.inj hrun
    exact ⟨rfl, rfl, rfl⟩
  | succ k ih =>
    obtain ⟨u, hstep, hrest⟩ := exists_step_of_stateAfter_succ hrun
    have hu := running_of_step hstep hp
    have hwu := delivered_ne_start_of_step hstep hw
    rw [waveform_succ hstep] at hn ⊢
    by_cases hm : s.mover = some .timer
    · rw [if_pos hm, List.length_cons] at hn ⊢
      obtain rfl := eq_of_timer_step_lt hstep hm (by omega)
      obtain ⟨hcnt, hact⟩ := ih hu hwu hrest (by rw [writeCounter_cnt, writeCounter_arrAct, passTurn_arrAct]; omega)
      refine ⟨hcnt.trans ?_, hact⟩
      rw [writeCounter_cnt]
      omega
    · rw [if_neg hm] at hn ⊢
      obtain ⟨hcnt, harr, hccr⟩ := cycle_kept_of_step hstep hp hm (deliversNext_ne_start hstep hw)
      rw [← hcnt, ← harr, ← hccr]
      rw [← hcnt, ← harr] at hn
      exact ih hu hwu hrest hn

/-- Settles O48: the counter has advanced by the TICKs, so after `ARR_ACT - CNT` of them it stands at the period and the
next one wraps. -/
theorem preloadLatency : Obligations.PreloadLatency := by
  intro k s t ht hle hw hrun hn
  have hcycle := cycle_of_stateAfter ht.1 hw hrun hn
  refine ⟨hcycle, fun hend hm => step_of_timer_le hm ?_⟩
  obtain ⟨hcnt, hact, -⟩ := hcycle
  omega

/-! ### Two runs that differ in the preload registers -/

/-- `s` with other values in the preload registers. -/
def State.withPreload (p : Nat) (q : Bank Nat) (s : State) : State :=
  { s with arrPre := p, ccrPre := q }

section WithPreload

variable (p : Nat) (q : Bank Nat) (s : State)

theorem mover_withPreload : (s.withPreload p q).mover = s.mover :=
  rfl

theorem wave_withPreload : (s.withPreload p q).wave = s.wave :=
  rfl

theorem oversizePeriod_withPreload (f : BitVec 32) :
    oversizePeriod f (s.withPreload p q) = (oversizePeriod f s).withPreload p q := by
  rw [oversizePeriod_eq_ite, oversizePeriod_eq_ite, apply_ite (State.withPreload p q)]
  rfl

end WithPreload

section Differing

variable {s t : State} (p : Nat) (q : Bank Nat) (hp : s.phase = .running)
include hp

/-- While running, which case a command is in does not depend on the preload registers. -/
theorem exec_withPreload {i : Instr} (h : exec i s = .next t) (hi : i ≠ .start) :
    ∃ p' q', exec i (s.withPreload p q) = .next (t.withPreload p' q') := by
  have hl : (s.withPreload p q).Live := show s.Live from live_of_exec h
  have hp0 : s.phase ≠ .uninitialized := by simp [hp]
  have hp' : (s.withPreload p q).phase ≠ .uninitialized := hp0
  cases i with
  | init =>
    obtain ⟨-, ⟨-, rfl⟩ | ⟨hstop, -⟩⟩ := execInit_cases h
    · exact ⟨p, q, exec_init_of_running hl hp⟩
    · exact absurd hp hstop
  | setfreq f =>
    obtain ⟨-, ⟨h0, -⟩ | ⟨-, hr, rfl⟩ | ⟨-, hr, hok, rfl⟩ | ⟨-, hok, rfl⟩⟩ := execSetfreq_cases h
    · exact absurd h0 hp0
    · exact ⟨p, q, exec_setfreq_of_not_inRange hl hp' hr⟩
    · exact ⟨p, q, oversizePeriod_withPreload p q s f ▸ exec_setfreq_of_not_fits hl hp' hr hok⟩
    · exact ⟨_, q, exec_setfreq_of_ok hl hp' hok⟩
  | setdc b d =>
    obtain ⟨-, ⟨h0, -⟩ | ⟨-, hb | hd, rfl⟩ | ⟨-, hd, c, hb, rfl⟩⟩ := execSetdc_cases h
    · exact absurd h0 hp0
    · exact ⟨p, q, exec_setdc_of_no_channel hl d hp' hb⟩
    · exact ⟨p, q, exec_setdc_of_not_dutyOK hl b hp' hd⟩
    · exact ⟨p, _, exec_setdc_of_ok hl hp' hb hd⟩
  | start => exact absurd rfl hi

/-- A step within the cycle, START left aside, leaves two states that differ in the preload registers alone. -/
theorem step_withPreload (h : step s = .next t) (hw : s.deliversNext ≠ some (encode .start))
    (hlt : s.mover = some .timer → s.cnt < s.arrAct) :
    ∃ p' q', step (s.withPreload p q) = .next (t.withPreload p' q') := by
  obtain ⟨hl, ⟨i, hm, hword, hexec⟩ | ⟨w, r, hm, hword, hr, rfl⟩ | ⟨hm, -⟩ | ⟨hm, rfl⟩⟩ := step_cases_decoded h
  · have hi : i ≠ .start := by
      rintro rfl
      exact hw ((deliversNext_of_host hm).trans hword)
    obtain ⟨p', q', he⟩ := exec_withPreload (s := takeWord (passTurn s)) p q hp hexec hi
    exact ⟨p', q', (step_of_host_ok (s := s.withPreload p q) hm hword (decode_encode i)).trans he⟩
  · exact ⟨p, q, step_of_host_error (s := s.withPreload p q) hm hword hr⟩
  · obtain rfl := eq_of_timer_step_lt h hm (hlt hm)
    exact ⟨p, q, step_of_timer_lt (s := s.withPreload p q) hm (hlt hm)⟩
  · exact ⟨p, q, step_of_none (s := s.withPreload p q) hl hm⟩

end Differing

theorem waveform_withPreload {k : Nat} {s : State} (p : Nat) (q : Bank Nat) (hp : s.phase = .running)
    (hw : ∀ w ∈ delivered k s, w ≠ encode .start) (hn : (waveform k s).length ≤ s.arrAct - s.cnt) :
    waveform k (s.withPreload p q) = waveform k s := by
  induction k generalizing s p q with
  | zero => rfl
  | succ k ih =>
    by_cases hl : s.Live
    · obtain ⟨t, hstep⟩ := step_not_stopped hl
      have ht := running_of_step hstep hp
      have hwt := delivered_ne_start_of_step hstep hw
      have hns := deliversNext_ne_start hstep hw
      rw [waveform_succ hstep] at hn ⊢
      by_cases hm : s.mover = some .timer
      · rw [if_pos hm, List.length_cons] at hn
        obtain ⟨p', q', hstep'⟩ := step_withPreload p q hp hstep hns fun _ => by omega
        obtain rfl := eq_of_timer_step_lt hstep hm (by omega)
        rw [waveform_succ hstep', mover_withPreload, wave_withPreload, ih p' q' ht hwt]
        rw [writeCounter_cnt, writeCounter_arrAct, passTurn_arrAct]
        omega
      · rw [if_neg hm] at hn
        obtain ⟨p', q', hstep'⟩ := step_withPreload p q hp hstep hns fun htimer => absurd htimer hm
        obtain ⟨hcnt, harr, -⟩ := cycle_kept_of_step hstep hp hm hns
        rw [← hcnt, ← harr] at hn
        rw [waveform_succ hstep', mover_withPreload, wave_withPreload, ih p' q' ht hwt hn]
    · rw [waveform_of_not_live hl, waveform_of_not_live (s := s.withPreload p q) hl]

/-- Settles O49: until the cycle boundary the two runs stay apart in the preload registers alone, which no output
reads. -/
theorem preloadsDoNotShowMidCycle : Obligations.PreloadsDoNotShowMidCycle :=
  fun _ _ p q ht _ hw hn => waveform_withPreload p q ht.1 hw hn

end Sys2Proof.Machine
end

section
/-! ## Infinite runs (20_memory.md section 2, 45_counter_and_outputs.md, fairness) -/

namespace Sys2Proof.Machine

/-! ### Update events keep coming -/

section Between

variable {r : Nat → State} (hr : IsRun r) {n : Nat} (hp : (r n).phase = .running)
include hr hp

theorem running_succ_of_isRun : (r (n + 1)).phase = .running := by
  obtain ⟨t, hstep, ws, ts, -, e⟩ := hr n
  rw [e, State.settle_phase]
  exact running_of_step hstep hp

theorem running_of_isRun {k : Nat} (hk : n ≤ k) : (r k).phase = .running := by
  induction k, hk using Nat.le_induction with
  | base => exact hp
  | succ k _ ih => exact running_succ_of_isRun hr ih

/-- Where the next step is no update event, what the counter lacks to the period does not grow, and a TICK makes it
less. -/
theorem remaining_of_not_updates (hu : ¬ (r n).UpdatesNext) :
    (r (n + 1)).arrAct - (r (n + 1)).cnt ≤ (r n).arrAct - (r n).cnt ∧
      ((r n).mover = some .timer →
        (r (n + 1)).arrAct - (r (n + 1)).cnt < (r n).arrAct - (r n).cnt) := by
  obtain ⟨t, hstep, ws, ts, -, e⟩ := hr n
  rw [e, State.settle_arrAct, State.settle_cnt]
  by_cases hm : (r n).mover = some .timer
  · have hlt : (r n).cnt < (r n).arrAct := by
      by_contra hle
      exact hu (.inl ⟨hm, Nat.le_of_not_lt hle⟩)
    rw [eq_of_timer_step_lt hstep hm hlt, writeCounter_arrAct, writeCounter_cnt, passTurn_arrAct]
    omega
  · have hw : (r n).deliversNext ≠ some (encode .start) := by
      intro hs
      by_cases hhost : (r n).mover = some .host
      · exact hu (.inr ⟨hhost, by simp [hp], (deliversNext_of_host hhost).symm.trans hs⟩)
      · cases (deliversNext_of_not_host hhost).symm.trans hs
    obtain ⟨hcnt, hact, -⟩ := cycle_kept_of_step hstep hp hm hw
    rw [hcnt, hact]
    exact ⟨le_rfl, fun h => absurd h hm⟩

/-- A run that makes no update event up to `k` has no more left of its cycle there. -/
theorem remaining_antitone {k : Nat} (hk : n ≤ k) (hu : ∀ m, n ≤ m → ¬ (r m).UpdatesNext) :
    (r k).arrAct - (r k).cnt ≤ (r n).arrAct - (r n).cnt := by
  induction k, hk using Nat.le_induction with
  | base => exact le_rfl
  | succ k hk ih => exact (remaining_of_not_updates hr (running_of_isRun hr hp hk) (hu k hk)).1.trans ih

end Between

/-- By induction on what is left of the cycle: fairness gives a TICK, which wraps or leaves less. -/
theorem exists_updatesNext {r : Nat → State} (hr : IsRun r) (hfair : WeaklyFair r) {n : Nat}
    (hp : (r n).phase = .running) : ∃ m, n ≤ m ∧ (r m).UpdatesNext := by
  induction hleft : (r n).arrAct - (r n).cnt using Nat.strong_induction_on generalizing n with
  | _ left ih =>
    by_contra hno
    have hnone (m : Nat) (hm : n ≤ m) : ¬ (r m).UpdatesNext := fun hu => hno ⟨m, hm, hu⟩
    obtain ⟨k, hk, htimer⟩ := hfair ⟨n, fun _ => running_of_isRun hr hp⟩ n
    have hless : (r (k + 1)).arrAct - (r (k + 1)).cnt < left := calc
      _ < (r k).arrAct - (r k).cnt := (remaining_of_not_updates hr (running_of_isRun hr hp hk) (hnone k hk)).2 htimer
      _ ≤ left := hleft ▸ remaining_antitone hr hp hk hnone
    obtain ⟨m, hm, hu⟩ := ih _ hless (running_of_isRun hr hp (Nat.le_succ_of_le hk)) rfl
    exact hnone m (by omega) hu

/-- Settles O57: from any running point, `exists_updatesNext`. -/
theorem updateEventsKeepComing : Obligations.UpdateEventsKeepComing :=
  fun _ hr hfair _ hp => exists_updatesNext hr hfair hp

/-! ### Every infinite interleaving is a run -/

/-- A running live state of configuration `c` in which nothing of the host's unending stream, nor of the turns, is
settled. -/
structure State.Unsettled (c : Config) (s : State) : Prop where
  cfg : s.cfg = c
  enabled : s.TickEnabled
  goesOn : s.hostGoesOn = true
  stream : s.stream = []
  turns : s.turns = []

/-- `s` with the next turn settled, and the next word where the turn is the host's. -/
def State.settleNext (a : Agent) (w : Word) (s : State) : State :=
  match a with
  | .host => s.settle [w] [.host]
  | .timer => s.settle [] [.timer]

theorem settles_settleNext {c : Config} {s : State} (h : s.Unsettled c) (a : Agent) (w : Word) :
    s.Settles (s.settleNext a w) := by
  cases a with
  | host => exact ⟨[w], [.host], .inr h.goesOn, rfl⟩
  | timer => exact ⟨[], [.timer], .inl rfl, rfl⟩

theorem phaseFault_running {i : Instr} (hi : i ≠ .init) : phaseFault .running i = none := by
  cases i with
  | init => exact absurd rfl hi
  | setfreq _ | setdc _ _ | start => rfl

section OneStep

variable {c : Config} {s : State} (h : s.Unsettled c)
include h

theorem step_settleNext_timer (w : Word) : (s.settleNext .timer w).mover = some .timer ∧
    ∃ t, step (s.settleNext .timer w) = .next t ∧ t.Unsettled c := by
  have hm : (s.settleNext .timer w).mover = some .timer :=
    mover_of_timer_turn (s := s.settleNext .timer w) (ts := []) h.enabled (by simp [State.settleNext, h.turns])
  refine ⟨hm, _, step_of_timer hm, ?_⟩
  exact
    { cfg := by simp [State.settleNext, h.cfg]
      enabled := by simpa [State.settleNext, State.TickEnabled, State.Live] using h.enabled
      goesOn := by simp [State.settleNext, h.goesOn]
      stream := by simp [State.settleNext, h.stream]
      turns := by simp [State.settleNext, h.turns] }

theorem step_settleNext_host {w : Word} {i : Instr} (hdec : decode w = .ok i) (hi : i ≠ .init)
    (ho : ¬ Overflows c i) :
    ((s.settleNext .host w).mover = some .host ∧ (s.settleNext .host w).nextWord = some w) ∧
      ∃ t, step (s.settleNext .host w) = .next t ∧ t.Unsettled c := by
  have hw : (s.settleNext .host w).nextWord = some w :=
    nextWord_of_cons (ws := []) (by simp [State.settleNext, h.stream])
  have hm : (s.settleNext .host w).mover = some .host :=
    mover_of_host_turn (ts := []) (by simp [hw]) h.enabled.2 (by simp [State.settleNext, h.turns])
  have hl : (takeWord (passTurn (s.settleNext .host w))).Live := h.enabled.2
  have hk : phaseFault (takeWord (passTurn (s.settleNext .host w))).phase i = none :=
    (congrArg (phaseFault · i) h.enabled.1).trans (phaseFault_running hi)
  obtain ⟨t, hexec, hlive⟩ := exec_live hl hk (h.cfg ▸ ho)
  have hstep := (step_of_host_ok hm hw hdec).trans hexec
  obtain ⟨hcfg, -, hstream, hgo, hturns, -⟩ := exec_keeps hexec
  refine ⟨⟨hm, hw⟩, t, hstep, ?_⟩
  exact
    { cfg := hcfg.trans h.cfg
      enabled := ⟨running_of_step hstep h.enabled.1, hlive⟩
      goesOn := hgo.trans h.goesOn
      stream := by simp [hstream, State.settleNext, h.stream]
      turns := by simp [hturns, State.settleNext, h.turns] }

/-- With its turn, and its word where it is the host, settled, either agent takes the next step, and the step settles
nothing further. -/
theorem step_settleNext (a : Agent) {w : Word} (hw : ∃ i, decode w = .ok i ∧ i ≠ .init ∧ ¬ Overflows c i) :
    ((s.settleNext a w).mover = some a ∧ (a = .host → (s.settleNext a w).nextWord = some w)) ∧
      ∃ t, step (s.settleNext a w) = .next t ∧ t.Unsettled c := by
  cases a with
  | host =>
    obtain ⟨i, hdec, hi, ho⟩ := hw
    obtain ⟨⟨hm, hnext⟩, hstep⟩ := step_settleNext_host h hdec hi ho
    exact ⟨⟨hm, fun _ => hnext⟩, hstep⟩
  | timer =>
    obtain ⟨hm, hstep⟩ := step_settleNext_timer h w
    exact ⟨⟨hm, nofun⟩, hstep⟩

end OneStep

/-- The state after `n` steps of the given agents and words, nothing settled in it. -/
def unsettledAfter (s : State) (agents : Nat → Agent) (words : Nat → Word) : Nat → State
  | 0 => s
  | n + 1 =>
    match step ((unsettledAfter s agents words n).settleNext (agents n) (words n)) with
    | .next t => t
    | .fault _ | .refused _ => unsettledAfter s agents words n

theorem unsettledAfter_succ {s t : State} {agents : Nat → Agent} {words : Nat → Word} {n : Nat}
    (h : step ((unsettledAfter s agents words n).settleNext (agents n) (words n)) = .next t) :
    unsettledAfter s agents words (n + 1) = t := by
  rw [unsettledAfter, h]

/-- Settles O60: each turn, and each word of the host, is settled just before the step that takes it; that step leaves a
running live state with nothing settled again. -/
theorem everyInfiniteInterleavingIsARun : Obligations.EveryInfiniteInterleavingIsARun := by
  intro s agents words ht hgo hstream hturns hwords
  have unsettled (n : Nat) : (unsettledAfter s agents words n).Unsettled s.cfg := by
    induction n with
    | zero => exact ⟨rfl, ht, hgo, hstream, hturns⟩
    | succ n ih =>
      obtain ⟨-, t, hstep, htu⟩ := step_settleNext ih (agents n) (hwords n)
      exact unsettledAfter_succ hstep ▸ htu
  refine ⟨fun n => (unsettledAfter s agents words n).settleNext (agents n) (words n),
    settles_settleNext (unsettled 0) _ _, fun n => ?isRun,
    fun n => (step_settleNext (unsettled n) (agents n) (hwords n)).1⟩
  case isRun =>
    obtain ⟨-, t, hstep, htu⟩ := step_settleNext (unsettled n) (agents n) (hwords n)
    exact ⟨t, hstep, unsettledAfter_succ hstep ▸ settles_settleNext htu _ _⟩

end Sys2Proof.Machine
end

section
/-! ## The assembler reads what the disassembler prints (30_encoding.md section 5) -/

namespace Sys2Proof.Machine

/-! ### Printed characters -/

/-- A character that the reader takes as it stands: upper case, and no comment or new line begins with it. -/
abbrev PrintedChar (c : Char) : Prop :=
  upperChar c = c ∧ c ≠ ';' ∧ c ≠ '\n'

/-- A printed character inside an operand or a mnemonic. -/
abbrev TokenChar (c : Char) : Prop :=
  PrintedChar c ∧ isBlank c = false ∧ c ≠ ','

/-- A mnemonic or an operand as text. -/
abbrev Token (cs : List Char) : Prop :=
  cs ≠ [] ∧ ∀ c ∈ cs, TokenChar c

theorem tokenChar_digitChar : ∀ d < 10, TokenChar (digitChar d) ∧ digitChar d ≠ 'X' := by
  decide

theorem digitValue_digitChar : ∀ d < 10, digitValue 10 (digitChar d) = some d := by
  decide

theorem token_channelName (c : Channel) : Token (channelName c) := by
  cases c <;> exact ⟨by decide, List.forall_iff_forall_mem.1 (by decide)⟩

theorem token_initName : Token initName :=
  ⟨by decide, List.forall_iff_forall_mem.1 (by decide)⟩

theorem token_setfreqName : Token setfreqName :=
  ⟨by decide, List.forall_iff_forall_mem.1 (by decide)⟩

theorem token_setdcName : Token setdcName :=
  ⟨by decide, List.forall_iff_forall_mem.1 (by decide)⟩

theorem token_startName : Token startName :=
  ⟨by decide, List.forall_iff_forall_mem.1 (by decide)⟩

section OfToken

variable {cs : List Char} (h : Token cs)
include h

theorem printedChar_of_mem_token : ∀ c ∈ cs, PrintedChar c :=
  fun c hc => (h.2 c hc).1

theorem isBlank_of_mem_token : ∀ c ∈ cs, isBlank c = false :=
  fun c hc => (h.2 c hc).2.1

theorem not_isBlank_of_mem_token : ∀ c ∈ cs, (!isBlank c) = true :=
  fun c hc => by rw [isBlank_of_mem_token h c hc, Bool.not_false]

theorem ne_comma_of_mem_token : ∀ c ∈ cs, decide (c ≠ ',') = true :=
  fun c hc => decide_eq_true (h.2 c hc).2.2

end OfToken

/-! ### Decimal literals -/

theorem mem_digitsBefore {fuel n : Nat} {rest : List Char} {c : Char} (h : c ∈ digitsBefore 10 fuel n rest) :
    (∃ d < 10, c = digitChar d) ∨ c ∈ rest := by
  induction fuel generalizing n rest with
  | zero =>
    obtain rfl | h := List.mem_cons.1 h
    · exact .inl ⟨n % 10, Nat.mod_lt _ (by decide), rfl⟩
    · exact .inr h
  | succ fuel ih =>
    unfold digitsBefore at h
    split at h
    · next hn =>
      obtain rfl | h := List.mem_cons.1 h
      · exact .inl ⟨n, hn, rfl⟩
      · exact .inr h
    · obtain h | h := ih h
      · exact .inl h
      · obtain rfl | h := List.mem_cons.1 h
        · exact .inl ⟨n % 10, Nat.mod_lt _ (by decide), rfl⟩
        · exact .inr h

theorem digitsBefore_ne_nil (fuel n : Nat) (rest : List Char) : digitsBefore 10 fuel n rest ≠ [] := by
  induction fuel generalizing n rest with
  | zero => exact List.cons_ne_nil _ _
  | succ fuel ih =>
    unfold digitsBefore
    split
    · exact List.cons_ne_nil _ _
    · exact ih _ _

theorem readDigits_digitChar (acc : Nat) {d : Nat} (hd : d < 10) (cs : List Char) :
    readDigits 10 acc (digitChar d :: cs) = readDigits 10 (acc * 10 + d) cs := by
  rw [readDigits, digitValue_digitChar d hd]

/-- Reading the digits of `n` comes to the digits after them with `n` read. -/
theorem readDigits_digitsBefore {fuel n : Nat} (hn : n < 10 ^ (fuel + 1)) (rest : List Char) :
    readDigits 10 0 (digitsBefore 10 fuel n rest) = readDigits 10 n rest := by
  induction fuel generalizing n rest with
  | zero =>
    rw [digitsBefore, readDigits_digitChar 0 (Nat.mod_lt _ (by decide)), Nat.zero_mul, Nat.zero_add,
      Nat.mod_eq_of_lt (by simpa using hn)]
  | succ fuel ih =>
    unfold digitsBefore
    split
    · next hlt => rw [readDigits_digitChar 0 hlt, Nat.zero_mul, Nat.zero_add]
    · rw [ih (Nat.div_lt_of_lt_mul (Nat.pow_succ' ▸ hn)), readDigits_digitChar _ (Nat.mod_lt _ (by decide)),
        Nat.div_add_mod']

theorem token_printDecimal (n : Nat) : Token (printDecimal n) := by
  refine ⟨digitsBefore_ne_nil _ _ _, fun c hc => ?_⟩
  obtain ⟨d, hd, rfl⟩ | h := mem_digitsBefore hc
  · exact (tokenChar_digitChar d hd).1
  · cases h

theorem x_not_mem_printDecimal (n : Nat) : 'X' ∉ printDecimal n := by
  intro h
  obtain ⟨d, hd, e⟩ | h := mem_digitsBefore h
  · exact (tokenChar_digitChar d hd).2 e.symm
  · cases h

/-- Without an X a literal is decimal. -/
theorem readLiteral_of_no_x {ds : List Char} (hne : ds ≠ []) (hx : 'X' ∉ ds) :
    readLiteral ds = readDigits 10 0 ds := by
  unfold readLiteral
  split
  · exact absurd rfl hne
  · simp at hx
  · simp at hx
  · rfl

theorem readLiteral_printDecimal {n : Nat} (hn : n < 10 ^ 20) : readLiteral (printDecimal n) = some n := by
  rw [readLiteral_of_no_x (token_printDecimal n).1 (x_not_mem_printDecimal n), printDecimal,
    readDigits_digitsBefore hn, readDigits]

/-! ### Channel operands -/

theorem token_printChan (c : ChanOperand) : Token (printChan c) := by
  cases c with
  | named c => exact token_channelName c
  | hash n =>
    refine ⟨List.cons_ne_nil _ _, fun c hc => ?_⟩
    obtain rfl | hc := List.mem_cons.1 hc
    · decide
    · exact (token_printDecimal n).2 c hc

theorem readChan_printChan_named (c : Channel) : readChan (printChan (.named c)) = some (.named c) := by
  cases c <;> decide

theorem readChan_printChan_hash {n : Nat} (hn : n < 10 ^ 20) : readChan (printChan (.hash n)) = some (.hash n) := by
  rw [printChan, readChan, readLiteral_printDecimal hn]
  rfl

theorem readChan_disassembleChan (b : BitVec 8) :
    readChan (printChan (disassembleChan b)) = some (disassembleChan b) := by
  unfold disassembleChan
  split
  · exact readChan_printChan_named _
  · exact readChan_printChan_hash (by omega)

/-! ### Parts of a line -/

section Parts

variable {p : Char → Bool} {a : List Char} {c : Char} (ha : ∀ x ∈ a, p x = true) (hc : p c = false) (l : List Char)
include ha hc

theorem takeWhile_append_stop : (a ++ c :: l).takeWhile p = a := by
  rw [List.takeWhile_append_of_pos ha, List.takeWhile_cons_of_neg (by simp [hc]), List.append_nil]

theorem dropWhile_append_stop : (a ++ c :: l).dropWhile p = c :: l := by
  rw [List.dropWhile_append_of_pos ha, List.dropWhile_cons_of_neg (by simp [hc])]

end Parts

theorem dropWhile_isBlank_of_head {cs : List Char} (h : ∀ c ∈ cs.head?, isBlank c = false) :
    cs.dropWhile isBlank = cs := by
  cases cs with
  | nil => rfl
  | cons c cs => exact List.dropWhile_cons_of_neg (by simp [h c rfl])

theorem trim_of_ends {cs : List Char} (hhead : ∀ c ∈ cs.head?, isBlank c = false)
    (hlast : ∀ c ∈ cs.getLast?, isBlank c = false) : trim cs = cs := by
  rw [trim, dropWhile_isBlank_of_head hhead, dropWhile_isBlank_of_head (by rwa [List.head?_reverse]),
    List.reverse_reverse]

theorem trim_space_cons (cs : List Char) : trim (' ' :: cs) = trim cs :=
  rfl

/-- Text between two tokens has no blanks around it. -/
theorem trim_append_token {a b : List Char} (ha : Token a) (hb : Token b) (m : List Char) :
    trim (a ++ m ++ b) = a ++ m ++ b := by
  refine trim_of_ends (fun c hc => isBlank_of_mem_token ha c ?_) (fun c hc => isBlank_of_mem_token hb c ?_)
  · rw [List.append_assoc, List.head?_append_of_ne_nil _ ha.1] at hc
    exact List.mem_of_mem_head? hc
  · rw [List.getLast?_append_of_ne_nil _ hb.1] at hc
    exact List.mem_of_mem_getLast? hc

theorem trim_token {a : List Char} (ha : Token a) : trim a = a :=
  trim_of_ends (fun c hc => isBlank_of_mem_token ha c (List.mem_of_mem_head? hc))
    (fun c hc => isBlank_of_mem_token ha c (List.mem_of_mem_getLast? hc))

/-! ### Commands -/

theorem readCommand_setfreq {ds : List Char} {f : Nat} (ht : Token ds) (hf : readLiteral ds = some f) :
    readCommand (setfreqName ++ ' ' :: ds) = some (.setfreq f) := by
  have hname := not_isBlank_of_mem_token token_setfreqName
  unfold readCommand
  rw [takeWhile_append_stop hname rfl, dropWhile_append_stop hname rfl, trim_space_cons, trim_token ht]
  simp only [hf]
  rfl

theorem readCommand_setdc {cs ds : List Char} {c : ChanOperand} {d : Nat} (hct : Token cs) (hdt : Token ds)
    (hc : readChan cs = some c) (hd : readLiteral ds = some d) :
    readCommand (setdcName ++ ' ' :: (cs ++ ',' :: ' ' :: ds)) = some (.setdc c d) := by
  have hname := not_isBlank_of_mem_token token_setdcName
  have hchan := takeWhile_append_stop (c := ',') (ne_comma_of_mem_token hct) (by decide) (' ' :: ds)
  have hduty := dropWhile_append_stop (c := ',') (ne_comma_of_mem_token hct) (by decide) (' ' :: ds)
  have hargs : trim (cs ++ ',' :: ' ' :: ds) = cs ++ ',' :: ' ' :: ds := by
    simpa using trim_append_token hct hdt [',', ' ']
  unfold readCommand
  rw [takeWhile_append_stop hname rfl, dropWhile_append_stop hname rfl, trim_space_cons, hargs]
  simp only [hchan, hduty, trim_token hct, hc, trim_space_cons, trim_token hdt, hd]
  rfl

theorem readCommand_printLine_disassembleInstr (i : Instr) :
    readCommand (printLine (disassembleInstr i)) = some (disassembleInstr i) := by
  cases i with
  | init | start => decide
  | setfreq f => exact readCommand_setfreq (token_printDecimal _) (readLiteral_printDecimal (by omega))
  | setdc b d =>
    have h := readCommand_setdc (token_printChan (disassembleChan b)) (token_printDecimal d.toNat)
      (readChan_disassembleChan b) (readLiteral_printDecimal (by omega))
    simpa [printLine, disassembleInstr] using h

/-! ### Lines -/

theorem printedChar_of_mem_printLine (l : AsmLine) : ∀ c ∈ printLine l, PrintedChar c := by
  have hspace : PrintedChar ' ' := by decide
  have hcomma : PrintedChar ',' := by decide
  cases l with
  | init => exact printedChar_of_mem_token token_initName
  | start => exact printedChar_of_mem_token token_startName
  | setfreq f =>
    simp only [printLine, List.forall_mem_append, List.forall_mem_cons]
    exact ⟨printedChar_of_mem_token token_setfreqName, hspace, printedChar_of_mem_token (token_printDecimal f)⟩
  | setdc b d =>
    simp only [printLine, List.forall_mem_append, List.forall_mem_cons]
    exact ⟨⟨printedChar_of_mem_token token_setdcName, hspace, printedChar_of_mem_token (token_printChan b)⟩, hcomma,
      hspace, printedChar_of_mem_token (token_printDecimal d)⟩

theorem trim_printLine (l : AsmLine) : trim (printLine l) = printLine l := by
  cases l with
  | init => exact trim_token token_initName
  | start => exact trim_token token_startName
  | setfreq f =>
    simpa [printLine] using trim_append_token token_setfreqName (token_printDecimal f) [' ']
  | setdc b d =>
    simpa [printLine] using
      trim_append_token token_setdcName (token_printDecimal d) (' ' :: printChan b ++ [',', ' '])

section Printed

variable {cs : List Char} (h : ∀ c ∈ cs, PrintedChar c)
include h

theorem stripComment_of_printed : stripComment cs = cs :=
  List.takeWhile_eq_self_iff.2 fun c hc => decide_eq_true (h c hc).2.1

theorem map_upperChar_of_printed : cs.map upperChar = cs :=
  (List.map_congr_left fun c hc => (h c hc).1).trans (List.map_id cs)

theorem splitLines_of_printed : splitLines cs = [cs] := by
  induction cs with
  | nil => rfl
  | cons c cs ih =>
    have hc : c ≠ '\n' := (h c List.mem_cons_self).2.2
    rw [splitLines, ih fun x hx => h x (List.mem_cons_of_mem _ hx)]
    exact if_neg hc

/-- A printed line without blanks around it is read as its command. -/
theorem readLine_of_printed {l : AsmLine} (htrim : trim cs = cs) (hread : readCommand cs = some l) :
    readLine cs = .command l := by
  have hne : cs ≠ [] := by
    rintro rfl
    cases hread
  simp only [readLine, stripComment_of_printed h, map_upperChar_of_printed h, htrim, if_neg hne, hread]

end Printed

/-! ### The words of the lines -/

theorem assembleChan_disassembleChan (b : BitVec 8) : assembleChan (disassembleChan b) = some b := by
  unfold disassembleChan
  split
  · next c hc =>
    rw [assembleChan, Option.some_inj, ← BitVec.toNat_inj, chanOf_eq_some_iff.1 hc]
    cases c <;> rfl
  · rw [assembleChan_hash_of_fits b.isLt, BitVec.ofNat_toNat, BitVec.setWidth_eq]

theorem assembleLiteral_toNat (n : BitVec 32) : assembleLiteral n.toNat = some n := by
  rw [assembleLiteral_of_fits n.isLt, BitVec.ofNat_toNat, BitVec.setWidth_eq]

theorem assembleLine_disassembleInstr (i : Instr) : assembleLine (disassembleInstr i) = some i := by
  cases i with
  | init | start => rfl
  | setfreq f => rw [disassembleInstr, assembleLine, assembleLiteral_toNat]
  | setdc b d => rw [disassembleInstr, assembleLine, assembleChan_disassembleChan, assembleLiteral_toNat]

/-- Settles O8: the printed line is one line, read as the line it prints, whose command is the one printed; and that
command has one word. -/
theorem assemblyOfDisassembly : Obligations.AssemblyOfDisassembly := by
  intro w i h
  have hprinted := printedChar_of_mem_printLine (disassembleInstr i)
  have hline : readLine (printLine (disassembleInstr i)) = .command (disassembleInstr i) :=
    readLine_of_printed hprinted (trim_printLine _) (readCommand_printLine_disassembleInstr i)
  rw [disassemble, h]
  simp only [assemble, splitLines_of_printed hprinted, assembleLines, hline, assembleLine_disassembleInstr,
    encode_of_decode h]

end Sys2Proof.Machine
end
